-- ==== Sys2Proof/Word.lean ====
section
/-! DEFINITION. The word types of the machine (spec/00_scope.md R8, R15). -/

namespace Sys2Proof

/-- A byte, 8 bits (spec/00_scope.md R15). -/
abbrev Byte := BitVec 8

/-- An address, offset or general register, 64 bits (spec/10_state.md R25, R27). -/
abbrev Word := BitVec 64

end Sys2Proof
end

