-- ==== Sys2Proof/Config.lean ====
section
/-! DEFINITION. What an implementation fixes: the parameters of spec/00_scope.md R7 and the operating modes.
The model has no free value: every result bit of the group is a copy of an operand bit
(spec/40_interleave_functions.md R116). -/

namespace Sys2Proof

/-- The operating mode `MODE` (spec/00_scope.md R7, spec/60_exceptions.md R179). -/
inductive Mode where
  | real | v8086 | prot16 | prot32 | compat | long64
  deriving DecidableEq, Repr

/-- A run of addresses of ordinary memory, memory whose reads have no side effect (spec/20_memory.md R47). -/
structure Region where
  base : Nat
  size : Nat
  deriving DecidableEq, Repr

/-- One mapped page of the page map behind `Translate`: the linear page number, the physical page it
goes to, whether user code (CPL 3) may read it, and whether the walk meets a reserved bit
(spec/20_memory.md R50, spec/60_exceptions.md R161, R174; log 19). -/
structure PageEntry where
  page : Nat
  frame : Nat
  user : Bool
  reserved : Bool
  deriving DecidableEq, Repr

/-- A segment register (spec/10_state.md R26). -/
inductive Seg where
  | es | cs | ss | ds | fs | gs
  deriving DecidableEq, Repr

/-- What the oracle `Translate` can answer for a read of `n` bytes: the addresses of the bytes in address order,
`#SS(0)`, `#GP(0)` or `#PF(code)` with its linear address (spec/20_memory.md R50). -/
inductive Answer where
  | addresses (as : List Nat)
  | ss
  | gp
  | pf (code : BitVec 32) (address : Word)
  deriving DecidableEq, Repr

/-- One row of the oracle `Translate`: its answer for `n` bytes at an effective address through a segment. -/
structure OracleRow where
  seg : Seg
  ea : Word
  n : Nat
  answer : Answer
  deriving DecidableEq, Repr

/-- The implementation parameters of spec/00_scope.md R7. They never change during a run. `oracle` holds the open
parameter `Translate` as data: its answers come before those of the segment check and page map, and since segments,
effective addresses and operand sizes are finitely many its rows can hold every function (log 39). `paging` is
`none` when paging is off, else the pages that are present. -/
structure Config where
  hasMmx : Bool
  hasSse2 : Bool
  hasAvx : Bool
  hasAvx2 : Bool
  fetch64 : Bool
  vexAlign16 : Bool
  ordinary : List Region
  oracle : List OracleRow
  paging : Option (List PageEntry)
  deriving DecidableEq, Repr

/-- `VLMAX`, the width of the widest vector register (spec/92_eei_decisions.md D2; log 2). The register file
of `State` is written at this width. -/
def vlmax : Nat := 256

/-- The longest instruction, in bytes (spec/30_encoding.md R60, R79). -/
def maxInstrLen : Nat := 15

end Sys2Proof
end

