-- ==== Sys2Proof/Syntax.lean ====
section
/-! DEFINITION. The 15 instruction forms (spec/30_encoding.md R61, spec/opcode_table.json) at the decoded level
of spec/00_scope.md R6: register numbers, and a register or a memory operand. -/

namespace Sys2Proof

/-- An address size or code width, 16, 32 or 64 bits (spec/30_encoding.md R69). -/
inductive AddrSize where
  | a16 | a32 | a64
  deriving DecidableEq, Repr

/-- What an effective address starts from: nothing, a general register, or the address of the next
instruction (spec/30_encoding.md R67, R68). -/
inductive AddrBase where
  | none
  | gpr (r : Fin 16)
  | next
  deriving DecidableEq, Repr

/-- A memory operand: segment, address size, base, index with its scale (the shift count 0 to 3), and the
displacement sign-extended to 32 bits (spec/30_encoding.md R65 to R70). The 16-bit forms `BX + SI` and so on
are a base and an index of scale 0. -/
structure MemOp where
  seg : Seg
  asize : AddrSize
  base : AddrBase
  index : Option (Fin 16 × Fin 4)
  disp : BitVec 32
  deriving DecidableEq, Repr

/-- The second source, `ModRM:r/m`: one of `n` registers or memory (spec/30_encoding.md R76). -/
inductive RegMem (n : Nat) where
  | reg (r : Fin n)
  | mem (m : MemOp)
  deriving DecidableEq, Repr

/-- What an encoding carries beside its operands: its length in bytes, prefixes included
(spec/30_encoding.md R79), and whether a `LOCK` prefix stands before it (R63). -/
structure Enc where
  len : Nat
  lock : Bool
  deriving DecidableEq, Repr

/-- The 15 forms, in the order of spec/opcode_table.json's classes; the suffixes Mm, Xmm, Ymm are those of the
table's ids. `d` is operand 1; in a legacy form it is also the first source (spec/30_encoding.md R62); `a` is
`VEX.vvvv`. -/
inductive Instr where
  | punpcklbwMm (e : Enc) (d : Fin 8) (src : RegMem 8)
  | punpcklwdMm (e : Enc) (d : Fin 8) (src : RegMem 8)
  | punpckldqMm (e : Enc) (d : Fin 8) (src : RegMem 8)
  | punpcklbwXmm (e : Enc) (d : Fin 16) (src : RegMem 16)
  | punpcklwdXmm (e : Enc) (d : Fin 16) (src : RegMem 16)
  | punpckldqXmm (e : Enc) (d : Fin 16) (src : RegMem 16)
  | punpcklqdqXmm (e : Enc) (d : Fin 16) (src : RegMem 16)
  | vpunpcklbwXmm (e : Enc) (d a : Fin 16) (src : RegMem 16)
  | vpunpcklwdXmm (e : Enc) (d a : Fin 16) (src : RegMem 16)
  | vpunpckldqXmm (e : Enc) (d a : Fin 16) (src : RegMem 16)
  | vpunpcklqdqXmm (e : Enc) (d a : Fin 16) (src : RegMem 16)
  | vpunpcklbwYmm (e : Enc) (d a : Fin 16) (src : RegMem 16)
  | vpunpcklwdYmm (e : Enc) (d a : Fin 16) (src : RegMem 16)
  | vpunpckldqYmm (e : Enc) (d a : Fin 16) (src : RegMem 16)
  | vpunpcklqdqYmm (e : Enc) (d a : Fin 16) (src : RegMem 16)
  deriving DecidableEq, Repr

/-- The element pair a mnemonic ends in: `BW`, `WD`, `DQ`, `QDQ` (spec/00_scope.md R15). -/
inductive Elem where
  | bw | wd | dq | qdq
  deriving DecidableEq, Repr

/-- The four encoding classes of the group, with what each encodes (spec/30_encoding.md R61, R75). -/
inductive Shape where
  | mmx (d : Fin 8) (src : RegMem 8)
  | sse (d : Fin 16) (src : RegMem 16)
  | vex (l : Bool) (d a : Fin 16) (src : RegMem 16)
  deriving DecidableEq, Repr

/-- The encoding facts of an instruction. -/
def Instr.enc : Instr → Enc
  | .punpcklbwMm e _ _ => e
  | .punpcklwdMm e _ _ => e
  | .punpckldqMm e _ _ => e
  | .punpcklbwXmm e _ _ => e
  | .punpcklwdXmm e _ _ => e
  | .punpckldqXmm e _ _ => e
  | .punpcklqdqXmm e _ _ => e
  | .vpunpcklbwXmm e _ _ _ => e
  | .vpunpcklwdXmm e _ _ _ => e
  | .vpunpckldqXmm e _ _ _ => e
  | .vpunpcklqdqXmm e _ _ _ => e
  | .vpunpcklbwYmm e _ _ _ => e
  | .vpunpcklwdYmm e _ _ _ => e
  | .vpunpckldqYmm e _ _ _ => e
  | .vpunpcklqdqYmm e _ _ _ => e

/-- The element pair of an instruction. -/
def Instr.elem : Instr → Elem
  | .punpcklbwMm _ _ _ => .bw
  | .punpcklwdMm _ _ _ => .wd
  | .punpckldqMm _ _ _ => .dq
  | .punpcklbwXmm _ _ _ => .bw
  | .punpcklwdXmm _ _ _ => .wd
  | .punpckldqXmm _ _ _ => .dq
  | .punpcklqdqXmm _ _ _ => .qdq
  | .vpunpcklbwXmm _ _ _ _ => .bw
  | .vpunpcklwdXmm _ _ _ _ => .wd
  | .vpunpckldqXmm _ _ _ _ => .dq
  | .vpunpcklqdqXmm _ _ _ _ => .qdq
  | .vpunpcklbwYmm _ _ _ _ => .bw
  | .vpunpcklwdYmm _ _ _ _ => .wd
  | .vpunpckldqYmm _ _ _ _ => .dq
  | .vpunpcklqdqYmm _ _ _ _ => .qdq

/-- The encoding class of an instruction with its operands. -/
def Instr.shape : Instr → Shape
  | .punpcklbwMm _ d src => .mmx d src
  | .punpcklwdMm _ d src => .mmx d src
  | .punpckldqMm _ d src => .mmx d src
  | .punpcklbwXmm _ d src => .sse d src
  | .punpcklwdXmm _ d src => .sse d src
  | .punpckldqXmm _ d src => .sse d src
  | .punpcklqdqXmm _ d src => .sse d src
  | .vpunpcklbwXmm _ d a src => .vex false d a src
  | .vpunpcklwdXmm _ d a src => .vex false d a src
  | .vpunpckldqXmm _ d a src => .vex false d a src
  | .vpunpcklqdqXmm _ d a src => .vex false d a src
  | .vpunpcklbwYmm _ d a src => .vex true d a src
  | .vpunpcklwdYmm _ d a src => .vex true d a src
  | .vpunpckldqYmm _ d a src => .vex true d a src
  | .vpunpcklqdqYmm _ d a src => .vex true d a src

/-- What the decoder must know of the machine: the operating mode and the `D` bit of the code segment
(spec/30_encoding.md R69, R77). -/
structure Ctx where
  mode : Mode
  csD : Bool
  deriving DecidableEq, Repr

/-- 64-bit mode. -/
def Ctx.long (c : Ctx) : Bool := c.mode = .long64

end Sys2Proof
end

