-- ==== Sys2Proof/Machine/State.lean ====
section
/-! DEFINITION. The state of the machine (spec/10_state.md R20 to R38), its faults and refusals
(spec/60_exceptions.md R160, R161), and the state after reset (spec/70_reset_and_hazards.md R190). -/

namespace Sys2Proof.Machine

/-- Memory: bytes by address, in one canonical form (`Memory.wf`, Sys2Proof/Machine/Ops.lean). -/
abbrev Memory := List Host.Cell

/-- A segment register: the selector and the hidden base, limit and attributes (spec/10_state.md R26, R30). The
widths of base and limit, which no rule gives, are the family's (PRESUMED, log 15). -/
structure SegReg where
  selector : BitVec 16
  base : BitVec 64
  limit : BitVec 32
  readable : Bool
  writable : Bool
  l : Bool
  d : Bool
  deriving DecidableEq, Repr

/-- Everything the spec gives the machine (spec/10_state.md R20, R30, R32), the implementation parameters
(spec/00_scope.md R7; log 3) and the program text (spec/10_state.md R34; log 11). -/
structure State where
  /-- The parameters of spec/00_scope.md R7; no step writes them. -/
  config : Config
  /-- `MM0`..`MM7` (R21). -/
  mm : Vector (BitVec 64) 8
  /-- Bits 79:64 of the x87 registers the MMX registers alias (R24, R32). -/
  x87High : Vector (BitVec 16) 8
  /-- The x87 status word: `ES` is bit 7, `TOS` bits 13:11 (R30, R32). -/
  x87Status : BitVec 16
  /-- The x87 tag word (R32). -/
  x87Tag : BitVec 16
  /-- `x87_dirty` (R32, R35). -/
  x87Dirty : Bool
  /-- `YMM0`..`YMM15`; `XMM[i]` is bits 127:0 (R22, R23). -/
  ymm : Vector (BitVec 256) 16
  /-- `MXCSR` (R29). -/
  mxcsr : BitVec 32
  /-- `RAX`..`R15` (R25). -/
  gpr : Vector (BitVec 64) 16
  /-- The instruction pointer (R27). -/
  rip : BitVec 64
  /-- `EFLAGS` (R28). -/
  eflags : BitVec 32
  es : SegReg
  cs : SegReg
  ss : SegReg
  ds : SegReg
  fs : SegReg
  gs : SegReg
  /-- The current privilege level (R30). -/
  cpl : BitVec 2
  cr0 : BitVec 32
  /-- `CR2` (spec/60_exceptions.md R161). -/
  cr2 : BitVec 64
  cr4 : BitVec 32
  xcr0 : BitVec 64
  /-- `IA32_EFER` (R30). -/
  efer : BitVec 64
  /-- Ordinary memory (R33). -/
  mem : Memory
  /-- The program text, by linear address (R34). -/
  text : Memory
  deriving DecidableEq, Repr

/-- The exceptions of the group (spec/60_exceptions.md R161). -/
inductive Exception where
  | ud
  | nm
  | ss
  | gp
  | pf (code : BitVec 32) (address : BitVec 64)
  | mf
  | ac
  deriving DecidableEq, Repr

/-- A step that ends in an exception (spec/60_exceptions.md R160, R161): the saved instruction pointer is the
address of the faulting instruction's first byte (R173). Every one is safe: the run ends where the hardware
would deliver the exception to a handler (spec/92_eei_decisions.md D12; log 23). -/
inductive Fault where
  /-- `#UD`, vector 6: raised by every form (R162 to R166) and by the decoder (spec/30_encoding.md R77). Safe. -/
  | invalidOpcode (savedPc : BitVec 64)
  /-- `#NM`, vector 7: raised by every form when `CR0.TS = 1` (R167). Safe. -/
  | deviceNotAvailable (savedPc : BitVec 64)
  /-- `#SS(0)`, vector 12: raised by a form with a memory operand in the stack segment (R170). Safe. -/
  | stackSegment (savedPc : BitVec 64)
  /-- `#GP(0)`, vector 13: raised by a form with a memory operand (R169), by an instruction longer than 15 bytes
  (R169 (e)), and by a fetch at a non-canonical address (spec/10_state.md R27; log 13). Safe. -/
  | generalProtection (savedPc : BitVec 64)
  /-- `#PF(code)`, vector 14, with the faulting linear address that `CR2` receives: raised by a form with a memory
  operand (R174). Safe. -/
  | pageFault (savedPc : BitVec 64) (code : BitVec 32) (address : BitVec 64)
  /-- `#MF`, vector 16: raised by an MMX form when an x87 exception is pending (R168). Safe. -/
  | x87Error (savedPc : BitVec 64)
  /-- `#AC(0)`, vector 17: raised by an MMX form with a memory operand (R171). Safe. -/
  | alignmentCheck (savedPc : BitVec 64)
  deriving DecidableEq, Repr

/-- A step the model gives no meaning to (spec/60_exceptions.md R160). -/
inductive Refusal where
  /-- Raised by an arm of `exec` for an instruction that has no meaning yet; no arm does. Safe. -/
  | notModelled (mnemonic : String)
  /-- Raised by the step: the bytes are not one of the 15 forms (spec/30_encoding.md R80, R85,
  spec/92_eei_decisions.md D16). Safe. -/
  | notInGroup
  /-- Raised by the step: the program text ends before the instruction does (spec/95_test_vectors.md section 6;
  log 11). Safe. -/
  | endOfText
  /-- Raised by a form whose memory operand lies outside ordinary memory (spec/20_memory.md R47,
  spec/92_eei_decisions.md D8). Safe. -/
  | notOrdinaryMemory
  deriving DecidableEq, Repr

/-- A data or stack segment after reset: selector 0, base 0, limit `FFFFh`, read/write (R190). -/
def SegReg.afterReset : SegReg :=
  { selector := 0, base := 0, limit := 0xFFFF, readable := true, writable := true, l := false, d := false }

/-- The code segment after reset: selector `F000h`, base `FFFF0000h` (R190); the rest is the family's (log 9). -/
def SegReg.csAfterReset : SegReg :=
  { SegReg.afterReset with selector := 0xF000, base := 0xFFFF0000 }

/-- The parameters the reset state carries (DESIGN CHOICE, log 3; `vexAlign16` is spec/92_eei_decisions.md D7):
every feature present, every address ordinary memory, no row of the oracle, paging off. -/
def resetConfig : Config :=
  { hasMmx := true, hasSse2 := true, hasAvx := true, hasAvx2 := true, fetch64 := false, vexAlign16 := false,
    ordinary := [⟨0, 2 ^ 64⟩], oracle := [], paging := none }

/-- The machine right after power-up or `RESET#` (spec/70_reset_and_hazards.md R190). Values R190 does not give:
log 3 (config), 8 (`RAX`, `RDX`), 9 (family values), 10 (memory), 14 (`x87_dirty`). -/
def State.reset : State :=
  { config := resetConfig
    mm := Vector.replicate 8 0
    x87High := Vector.replicate 8 0
    x87Status := 0
    x87Tag := 0x5555
    x87Dirty := false
    ymm := Vector.replicate 16 0
    mxcsr := 0x1F80
    gpr := Vector.replicate 16 0
    rip := 0xFFF0
    eflags := 2
    es := SegReg.afterReset
    cs := SegReg.csAfterReset
    ss := SegReg.afterReset
    ds := SegReg.afterReset
    fs := SegReg.afterReset
    gs := SegReg.afterReset
    cpl := 0
    cr0 := 0x60000010
    cr2 := 0
    cr4 := 0
    xcr0 := 1
    efer := 0
    mem := []
    text := [] }

end Sys2Proof.Machine
end

