-- ==== Sys2Proof/Machine/Interleave.lean ====
section
/-! DEFINITION. The interleave functions (spec/40_interleave_functions.md): the general law R100 and the eleven
functions R101 to R111 as the tables give them, high element first, with the corrections of
spec/90_conflicts.md C2 to C4. -/

namespace Sys2Proof.Machine

/-- `InterleaveLow(w, L, S1, S2)` (R100): in each lane of `lanebits` bits, element `i` of the low half of `s1` goes
to position `2i` and element `i` of the low half of `s2` to position `2i + 1`. `lanebits` is 64 for the MMX shape,
128 for the others, whose `W` is 128 or 256. -/
def interleaveLow (w lanebits : Nat) {W : Nat} (s1 s2 : BitVec W) : BitVec W :=
  BitVec.ofFnLE fun j : Fin W =>
    let lo := lanebits * (j.val / lanebits)
    let e := j.val % lanebits / w
    (if e % 2 = 0 then s1 else s2).getLsbD (lo + e / 2 * w + j.val % w)

/-- `INTERLEAVE_BYTES_64` (R101): the bytes of bits 31:0. -/
def interleaveBytes64 (s1 s2 : BitVec 64) : BitVec 64 :=
  s2.extractLsb 31 24 ++ s1.extractLsb 31 24 ++ s2.extractLsb 23 16 ++ s1.extractLsb 23 16 ++
  s2.extractLsb 15 8 ++ s1.extractLsb 15 8 ++ s2.extractLsb 7 0 ++ s1.extractLsb 7 0

/-- `INTERLEAVE_WORDS_64` (R102): the words of bits 31:0. -/
def interleaveWords64 (s1 s2 : BitVec 64) : BitVec 64 :=
  s2.extractLsb 31 16 ++ s1.extractLsb 31 16 ++ s2.extractLsb 15 0 ++ s1.extractLsb 15 0

/-- `INTERLEAVE_DWORDS_64` (R103): the doublewords of bits 31:0. -/
def interleaveDwords64 (s1 s2 : BitVec 64) : BitVec 64 :=
  s2.extractLsb 31 0 ++ s1.extractLsb 31 0

/-- `INTERLEAVE_BYTES` (R104): the bytes of bits 63:0. -/
def interleaveBytes (s1 s2 : BitVec 128) : BitVec 128 :=
  s2.extractLsb 63 56 ++ s1.extractLsb 63 56 ++ s2.extractLsb 55 48 ++ s1.extractLsb 55 48 ++
  s2.extractLsb 47 40 ++ s1.extractLsb 47 40 ++ s2.extractLsb 39 32 ++ s1.extractLsb 39 32 ++
  s2.extractLsb 31 24 ++ s1.extractLsb 31 24 ++ s2.extractLsb 23 16 ++ s1.extractLsb 23 16 ++
  s2.extractLsb 15 8 ++ s1.extractLsb 15 8 ++ s2.extractLsb 7 0 ++ s1.extractLsb 7 0

/-- `INTERLEAVE_WORDS` (R105): the words of bits 63:0. -/
def interleaveWords (s1 s2 : BitVec 128) : BitVec 128 :=
  s2.extractLsb 63 48 ++ s1.extractLsb 63 48 ++ s2.extractLsb 47 32 ++ s1.extractLsb 47 32 ++
  s2.extractLsb 31 16 ++ s1.extractLsb 31 16 ++ s2.extractLsb 15 0 ++ s1.extractLsb 15 0

/-- `INTERLEAVE_DWORDS` (R106): the doublewords of bits 63:0. -/
def interleaveDwords (s1 s2 : BitVec 128) : BitVec 128 :=
  s2.extractLsb 63 32 ++ s1.extractLsb 63 32 ++ s2.extractLsb 31 0 ++ s1.extractLsb 31 0

/-- `INTERLEAVE_QWORDS` (R107): the quadwords of bits 63:0. -/
def interleaveQwords (s1 s2 : BitVec 128) : BitVec 128 :=
  s2.extractLsb 63 0 ++ s1.extractLsb 63 0

/-- `INTERLEAVE_BYTES_256b` (R108): the bytes of bits 63:0 and 191:128. -/
def interleaveBytes256 (s1 s2 : BitVec 256) : BitVec 256 :=
  s2.extractLsb 191 184 ++ s1.extractLsb 191 184 ++ s2.extractLsb 183 176 ++ s1.extractLsb 183 176 ++
  s2.extractLsb 175 168 ++ s1.extractLsb 175 168 ++ s2.extractLsb 167 160 ++ s1.extractLsb 167 160 ++
  s2.extractLsb 159 152 ++ s1.extractLsb 159 152 ++ s2.extractLsb 151 144 ++ s1.extractLsb 151 144 ++
  s2.extractLsb 143 136 ++ s1.extractLsb 143 136 ++ s2.extractLsb 135 128 ++ s1.extractLsb 135 128 ++
  s2.extractLsb 63 56 ++ s1.extractLsb 63 56 ++ s2.extractLsb 55 48 ++ s1.extractLsb 55 48 ++
  s2.extractLsb 47 40 ++ s1.extractLsb 47 40 ++ s2.extractLsb 39 32 ++ s1.extractLsb 39 32 ++
  s2.extractLsb 31 24 ++ s1.extractLsb 31 24 ++ s2.extractLsb 23 16 ++ s1.extractLsb 23 16 ++
  s2.extractLsb 15 8 ++ s1.extractLsb 15 8 ++ s2.extractLsb 7 0 ++ s1.extractLsb 7 0

/-- `INTERLEAVE_WORDS_256b` (R109): the words of bits 63:0 and 191:128. -/
def interleaveWords256 (s1 s2 : BitVec 256) : BitVec 256 :=
  s2.extractLsb 191 176 ++ s1.extractLsb 191 176 ++ s2.extractLsb 175 160 ++ s1.extractLsb 175 160 ++
  s2.extractLsb 159 144 ++ s1.extractLsb 159 144 ++ s2.extractLsb 143 128 ++ s1.extractLsb 143 128 ++
  s2.extractLsb 63 48 ++ s1.extractLsb 63 48 ++ s2.extractLsb 47 32 ++ s1.extractLsb 47 32 ++
  s2.extractLsb 31 16 ++ s1.extractLsb 31 16 ++ s2.extractLsb 15 0 ++ s1.extractLsb 15 0

/-- `INTERLEAVE_DWORDS_256b` (R110): the doublewords of bits 63:0 and 191:128. -/
def interleaveDwords256 (s1 s2 : BitVec 256) : BitVec 256 :=
  s2.extractLsb 191 160 ++ s1.extractLsb 191 160 ++ s2.extractLsb 159 128 ++ s1.extractLsb 159 128 ++
  s2.extractLsb 63 32 ++ s1.extractLsb 63 32 ++ s2.extractLsb 31 0 ++ s1.extractLsb 31 0

/-- `INTERLEAVE_QWORDS_256b` (R111): the quadwords of bits 63:0 and 191:128. -/
def interleaveQwords256 (s1 s2 : BitVec 256) : BitVec 256 :=
  s2.extractLsb 191 128 ++ s1.extractLsb 191 128 ++ s2.extractLsb 63 0 ++ s1.extractLsb 63 0

end Sys2Proof.Machine
end

