-- ==== Sys2Proof/WellFormed.lean ====
section
/-! DEFINITION. Which terms of `Instr` an encoding can stand for in a mode: the structural checks. That the
length an instruction carries is one its encoding can have is `Instr.lenFits`, in Sys2Proof/Decode.lean. -/

namespace Sys2Proof

/-- A general or vector register number the mode can name: 8 to 15 only in 64-bit mode
(spec/10_state.md R22, R25). -/
def regOk (c : Ctx) (r : Fin 16) : Bool := c.long || r.val < 8

/-- The base and index pairs of 16-bit addressing (spec/30_encoding.md R68): BX 3, BP 5, SI 6, DI 7. -/
def pair16Ok : AddrBase → Option (Fin 16 × Fin 4) → Bool
  | .none, none => true
  | .gpr b, none => b = 3 || b = 5 || b = 6 || b = 7
  | .gpr b, some (i, k) => (b = 3 || b = 5) && (i = 6 || i = 7) && k = 0
  | _, _ => false

/-- The base and index pairs of 32-bit and 64-bit addressing (spec/30_encoding.md R65, R67): register 4 is
never an index; RIP-relative addressing has no index and exists only in 64-bit mode. -/
def pair32Ok (c : Ctx) : AddrBase → Option (Fin 16 × Fin 4) → Bool
  | .none, none => true
  | .none, some (i, _) => regOk c i && i ≠ 4
  | .gpr b, none => regOk c b
  | .gpr b, some (i, _) => regOk c b && regOk c i && i ≠ 4
  | .next, none => c.long
  | .next, some _ => false

/-- A memory operand an encoding can name: 64-bit addressing only in 64-bit mode, 16-bit addressing only
outside it (spec/30_encoding.md R69), and a 16-bit displacement with 16-bit addressing (R66). -/
def MemOp.wf (c : Ctx) (m : MemOp) : Bool :=
  match m.asize with
  | .a16 => !c.long && pair16Ok m.base m.index && m.disp = (m.disp.setWidth 16).signExtend 32
  | .a32 => pair32Ok c m.base m.index
  | .a64 => c.long && pair32Ok c m.base m.index

/-- The second source of an MMX form: any of the eight registers (spec/10_state.md R21) or memory. -/
def mmSrcOk (c : Ctx) : RegMem 8 → Bool
  | .reg _ => true
  | .mem m => m.wf c

/-- The second source of a form on vector registers. -/
def vecSrcOk (c : Ctx) : RegMem 16 → Bool
  | .reg r => regOk c r
  | .mem m => m.wf c

/-- The operand checks of each class. A VEX form has no encoding in real-address and virtual-8086 mode
(spec/30_encoding.md R74). -/
def Shape.wf (c : Ctx) : Shape → Bool
  | .mmx _ src => mmSrcOk c src
  | .sse d src => regOk c d && vecSrcOk c src
  | .vex _ d a src =>
    c.mode ≠ .real && c.mode ≠ .v8086 && regOk c d && regOk c a && vecSrcOk c src

/-- A `LOCK` prefix before a VEX prefix leaves no instruction of the group: the decoder answers `#UD`
(spec/30_encoding.md R77 step 3). -/
def lockOk : Shape → Bool → Bool
  | .mmx _ _, _ => true
  | .sse _ _, _ => true
  | .vex _ _ _ _, lock => !lock

/-- Well formed: operands the mode can name, a length within 3 to 15 bytes (spec/30_encoding.md R60), no
`LOCK` on a VEX form. -/
def Instr.wf (c : Ctx) (i : Instr) : Bool :=
  i.shape.wf c && 3 ≤ i.enc.len && i.enc.len ≤ maxInstrLen && lockOk i.shape i.enc.lock

end Sys2Proof
end

