-- ==== Sys2Proof/Decode.lean ====
section
/-! DEFINITION. The decoder of spec/30_encoding.md (R60 to R86), total on byte strings (R85), and after it the
encoder, written from the same layouts. -/

namespace Sys2Proof

/-! ## Fields -/

/-- The default address size of the mode (spec/30_encoding.md R69, spec/60_exceptions.md R179). -/
def Ctx.defaultAddr (c : Ctx) : AddrSize :=
  match c.mode with
  | .long64 => .a64
  | .prot32 => .a32
  | .compat => if c.csD then .a32 else .a16
  | .real => .a16
  | .v8086 => .a16
  | .prot16 => .a16

/-- The other address size, the one a `67` prefix switches to (spec/30_encoding.md R69). -/
def AddrSize.switched : AddrSize → AddrSize
  | .a64 => .a32
  | .a32 => .a16
  | .a16 => .a32

/-- The address size in force (spec/30_encoding.md R69). -/
def Ctx.addrSize (c : Ctx) (has67 : Bool) : AddrSize :=
  if has67 then c.defaultAddr.switched else c.defaultAddr

/-- A 4-bit register number from an extension bit and three encoded bits (spec/30_encoding.md R75). -/
def regNum (ext : Bool) (low : BitVec 3) : Fin 16 := (BitVec.ofBool ext ++ low).toFin

/-- The default segment of a memory operand: `SS` when the base is register 4 or 5 (`SP`, `BP` of any width),
else `DS` (spec/30_encoding.md R68, R70). -/
def defaultSeg : AddrBase → Seg
  | .none => .ds
  | .gpr r => if r = 4 || r = 5 then .ss else .ds
  | .next => .ds

/-! ## Prefixes -/

/-- What the scan of the legacy prefixes notes (spec/30_encoding.md R77 step 1). -/
structure Prefixes where
  has66 : Bool
  has67 : Bool
  hasF0 : Bool
  hasF2 : Bool
  hasF3 : Bool
  seg : Option Seg
  deriving DecidableEq, Repr

/-- No prefix seen. -/
def Prefixes.empty : Prefixes := ⟨false, false, false, false, false, none⟩

/-- A `CS`, `SS`, `DS` or `ES` override. The last override wins, but in 64-bit mode these four are accepted and
ignored where `FS` or `GS` stands before them (spec/30_encoding.md R63); where none does, they only choose between
`#SS(0)` and `#GP(0)` (R70; log 28). -/
def Prefixes.noteSeg (c : Ctx) (p : Prefixes) (g : Seg) : Prefixes :=
  if c.long && (p.seg = some .fs || p.seg = some .gs) then p else { p with seg := some g }

/-- One legacy prefix byte (spec/30_encoding.md R63); `none` when the byte is no prefix. -/
def Prefixes.note (c : Ctx) (p : Prefixes) (b : Byte) : Option Prefixes :=
  if b = 0x66 then some { p with has66 := true }
  else if b = 0x67 then some { p with has67 := true }
  else if b = 0xF0 then some { p with hasF0 := true }
  else if b = 0xF2 then some { p with hasF2 := true }
  else if b = 0xF3 then some { p with hasF3 := true }
  else if b = 0x2E then some (p.noteSeg c .cs)
  else if b = 0x36 then some (p.noteSeg c .ss)
  else if b = 0x3E then some (p.noteSeg c .ds)
  else if b = 0x26 then some (p.noteSeg c .es)
  else if b = 0x64 then some { p with seg := some .fs }
  else if b = 0x65 then some { p with seg := some .gs }
  else none

/-- The legacy prefixes at the head of a byte string, and the bytes after them. -/
def scanPrefixes (c : Ctx) (p : Prefixes) : List Byte → Prefixes × List Byte
  | [] => (p, [])
  | b :: r =>
    match p.note c b with
    | some p' => scanPrefixes c p' r
    | none => (p, b :: r)

/-- The extension bits `R`, `X`, `B` of a REX or VEX prefix (spec/30_encoding.md R71 to R73). -/
structure Ext where
  r : Bool
  x : Bool
  b : Bool
  deriving DecidableEq, Repr

/-- No extension. -/
def Ext.none : Ext := ⟨false, false, false⟩

/-- A REX prefix `0100WRXB`; `W` is ignored (spec/30_encoding.md R73). -/
def rexOf (b : Byte) : Option Ext :=
  if b.extractLsb 7 4 = 4#4 then some ⟨b.getLsbD 2, b.getLsbD 1, b.getLsbD 0⟩ else none

/-- The REX prefix of 64-bit mode, if the next byte is one (spec/30_encoding.md R77 step 2). -/
def takeRex (c : Ctx) : List Byte → Option Ext × List Byte
  | [] => (none, [])
  | b :: r =>
    if c.long then
      match rexOf b with
      | some e => (some e, r)
      | none => (none, b :: r)
    else (none, b :: r)

/-- The fields of a VEX prefix, already de-inverted. -/
structure Vex where
  ext : Ext
  map : BitVec 5
  vvvv : BitVec 4
  l : Bool
  pp : BitVec 2
  deriving DecidableEq, Repr

/-- The two-byte VEX prefix after its `C5` (spec/30_encoding.md R72). -/
def vexOf2 (p : Byte) : Vex :=
  { ext := ⟨!p.getLsbD 7, false, false⟩, map := 1#5, vvvv := ~~~ (p.extractLsb 6 3),
    l := p.getLsbD 2, pp := p.extractLsb 1 0 }

/-- The three-byte VEX prefix after its `C4` (spec/30_encoding.md R71); `W` is ignored. -/
def vexOf3 (p1 p2 : Byte) : Vex :=
  { ext := ⟨!p1.getLsbD 7, !p1.getLsbD 6, !p1.getLsbD 5⟩, map := p1.extractLsb 4 0,
    vvvv := ~~~ (p2.extractLsb 6 3), l := p2.getLsbD 2, pp := p2.extractLsb 1 0 }

/-- Outside 64-bit mode only three bits of each register number count (spec/30_encoding.md R74, R75). -/
def Vex.inMode (c : Ctx) (v : Vex) : Vex :=
  if c.long then v else { v with ext := Ext.none, vvvv := v.vvvv &&& 7#4 }

/-- The VEX fields that follow the byte `C5` or `C4`, and the bytes after them. -/
def takeVex (c : Ctx) (three : Bool) : List Byte → Option (Vex × List Byte)
  | [] => none
  | p :: r =>
    if three then
      match r with
      | [] => none
      | p2 :: r2 => some ((vexOf3 p p2).inMode c, r2)
    else some ((vexOf2 p).inMode c, r)

/-! ## ModRM, SIB, displacement -/

/-- A displacement of 0, 1, 2 or 4 bytes, little-endian, sign-extended to 32 bits, and the bytes after it
(spec/30_encoding.md R66). -/
def takeDisp : Nat → List Byte → Option (BitVec 32 × List Byte)
  | 0, r => some (0, r)
  | 1, b0 :: r => some (b0.signExtend 32, r)
  | 2, b0 :: b1 :: r => some ((b1 ++ b0).signExtend 32, r)
  | 4, b0 :: b1 :: b2 :: b3 :: r => some (b3 ++ b2 ++ b1 ++ b0, r)
  | _, _ => none

/-- A memory operand from its parts, with the segment of spec/30_encoding.md R70. -/
def mkMem (seg : Option Seg) (a : AddrSize) (base : AddrBase) (index : Option (Fin 16 × Fin 4))
    (disp : BitVec 32) : MemOp :=
  { seg := seg.getD (defaultSeg base), asize := a, base := base, index := index, disp := disp }

/-- The base and index of 16-bit addressing (spec/30_encoding.md R68). -/
def pair16 (rm : BitVec 3) : AddrBase × Option (Fin 16 × Fin 4) :=
  match rm.toNat with
  | 0 => (.gpr 3, some (6, 0))
  | 1 => (.gpr 3, some (7, 0))
  | 2 => (.gpr 5, some (6, 0))
  | 3 => (.gpr 5, some (7, 0))
  | 4 => (.gpr 6, none)
  | 5 => (.gpr 7, none)
  | 6 => (.gpr 5, none)
  | _ => (.gpr 3, none)

/-- The memory operand of 16-bit addressing (spec/30_encoding.md R68). -/
def takeMem16 (seg : Option Seg) (mod : BitVec 2) (rm : BitVec 3) (r : List Byte) :
    Option (MemOp × List Byte) :=
  if mod = 0#2 && rm = 6#3 then
    (takeDisp 2 r).map fun (d, r') => (mkMem seg .a16 .none none d, r')
  else
    (takeDisp mod.toNat r).map fun (d, r') => (mkMem seg .a16 (pair16 rm).1 (pair16 rm).2 d, r')

/-- How many displacement bytes `mod` asks for with 32-bit and 64-bit addressing (spec/30_encoding.md R67). -/
def dispLen32 (mod : BitVec 2) : Nat :=
  if mod = 0#2 then 0 else if mod = 1#2 then 1 else 4

/-- The memory operand of 32-bit and 64-bit addressing without SIB (spec/30_encoding.md R67). -/
def takeMemPlain (c : Ctx) (a : AddrSize) (e : Ext) (seg : Option Seg) (mod : BitVec 2) (rm : BitVec 3)
    (r : List Byte) : Option (MemOp × List Byte) :=
  if mod = 0#2 && rm = 5#3 then
    (takeDisp 4 r).map fun (d, r') => (mkMem seg a (if c.long then .next else .none) none d, r')
  else
    (takeDisp (dispLen32 mod) r).map fun (d, r') => (mkMem seg a (.gpr (regNum e.b rm)) none d, r')

/-- The scaled index of a SIB byte; number 4 means none (spec/30_encoding.md R65). -/
def sibIndex (e : Ext) (sib : Byte) : Option (Fin 16 × Fin 4) :=
  if regNum e.x (sib.extractLsb 5 3) = 4 then none
  else some (regNum e.x (sib.extractLsb 5 3), (sib.extractLsb 7 6).toFin)

/-- The memory operand with a SIB byte (spec/30_encoding.md R65, R67). -/
def takeMemSib (a : AddrSize) (e : Ext) (seg : Option Seg) (mod : BitVec 2) :
    List Byte → Option (MemOp × List Byte)
  | [] => none
  | sib :: r =>
    if mod = 0#2 && sib.extractLsb 2 0 = 5#3 then
      (takeDisp 4 r).map fun (d, r') => (mkMem seg a .none (sibIndex e sib) d, r')
    else
      (takeDisp (dispLen32 mod) r).map fun (d, r') =>
        (mkMem seg a (.gpr (regNum e.b (sib.extractLsb 2 0))) (sibIndex e sib) d, r')

/-- The memory operand that `mod` and `rm` select (spec/30_encoding.md R67, R68, R76). -/
def takeMem (c : Ctx) (a : AddrSize) (e : Ext) (seg : Option Seg) (mod : BitVec 2) (rm : BitVec 3)
    (r : List Byte) : Option (MemOp × List Byte) :=
  match a with
  | .a16 => takeMem16 seg mod rm r
  | .a32 => if rm = 4#3 then takeMemSib a e seg mod r else takeMemPlain c a e seg mod rm r
  | .a64 => if rm = 4#3 then takeMemSib a e seg mod r else takeMemPlain c a e seg mod rm r

/-- A ModRM byte with what follows it: the `reg` field, and the `r/m` operand as three register bits or a
memory operand (spec/30_encoding.md R64, R76). -/
structure ModRM where
  reg : BitVec 3
  rm : Sum (BitVec 3) MemOp
  deriving DecidableEq, Repr

/-- The ModRM byte, SIB byte and displacement, and the bytes after them. -/
def takeModRM (c : Ctx) (a : AddrSize) (e : Ext) (seg : Option Seg) : List Byte → Option (ModRM × List Byte)
  | [] => none
  | b :: r =>
    if b.extractLsb 7 6 = 3#2 then some (⟨b.extractLsb 5 3, .inl (b.extractLsb 2 0)⟩, r)
    else (takeMem c a e seg (b.extractLsb 7 6) (b.extractLsb 2 0) r).map fun (m, r') =>
      (⟨b.extractLsb 5 3, .inr m⟩, r')

/-- The `r/m` operand of an MMX form: three register bits (spec/30_encoding.md R75). -/
def ModRM.mmSrc (q : ModRM) : RegMem 8 :=
  match q.rm with
  | .inl n => .reg n.toFin
  | .inr m => .mem m

/-- The `r/m` operand of a form on vector registers: `B:rm` (spec/30_encoding.md R75). -/
def ModRM.vecSrc (q : ModRM) (e : Ext) : RegMem 16 :=
  match q.rm with
  | .inl n => .reg (regNum e.b n)
  | .inr m => .mem m

/-! ## The forms -/

/-- The opcode byte of the group (spec/30_encoding.md R77). -/
def elemOf (op : Byte) : Option Elem :=
  if op = 0x60 then some .bw
  else if op = 0x61 then some .wd
  else if op = 0x62 then some .dq
  else if op = 0x6C then some .qdq
  else none

/-- The MMX form; there is none for quadwords (spec/30_encoding.md R61, R80). -/
def mkMm (k : Elem) (e : Enc) (d : Fin 8) (src : RegMem 8) : Option Instr :=
  match k with
  | .bw => some (.punpcklbwMm e d src)
  | .wd => some (.punpcklwdMm e d src)
  | .dq => some (.punpckldqMm e d src)
  | .qdq => none

/-- The legacy SSE2 form. -/
def mkXmm (k : Elem) (e : Enc) (d : Fin 16) (src : RegMem 16) : Instr :=
  match k with
  | .bw => .punpcklbwXmm e d src
  | .wd => .punpcklwdXmm e d src
  | .dq => .punpckldqXmm e d src
  | .qdq => .punpcklqdqXmm e d src

/-- The VEX form: VEX.128 when `L` is 0, VEX.256 when it is 1 (spec/30_encoding.md R77 step 3). -/
def mkVex (l : Bool) (k : Elem) (e : Enc) (d a : Fin 16) (src : RegMem 16) : Instr :=
  match l, k with
  | false, .bw => .vpunpcklbwXmm e d a src
  | false, .wd => .vpunpcklwdXmm e d a src
  | false, .dq => .vpunpckldqXmm e d a src
  | false, .qdq => .vpunpcklqdqXmm e d a src
  | true, .bw => .vpunpcklbwYmm e d a src
  | true, .wd => .vpunpcklwdYmm e d a src
  | true, .dq => .vpunpckldqYmm e d a src
  | true, .qdq => .vpunpcklqdqYmm e d a src

/-- The decoder's answers (spec/30_encoding.md R85): a form, a named fault (`ud`, or `gp` for an instruction
longer than 15 bytes), not an instruction of the group, or the program text ends inside the bytes. -/
inductive Decoded where
  | instr (i : Instr)
  | ud
  | gp
  | notInGroup
  | textEnds
  deriving DecidableEq, Repr

/-- The answer when the bytes run out: with 15 bytes read, the instruction is longer than 15
(spec/30_encoding.md R79; log 12). -/
def outOfBytes (n : Nat) : Decoded := if n = maxInstrLen then .gp else .textEnds

/-- Step 4 of spec/30_encoding.md R77, after the byte `0F`; `n` is how many bytes there are in all. -/
def decodeLegacy (c : Ctx) (n : Nat) (p : Prefixes) (rex : Option Ext) : List Byte → Decoded
  | [] => outOfBytes n
  | op :: r =>
    match elemOf op with
    | none => .notInGroup
    | some k =>
      if p.hasF2 || p.hasF3 then .notInGroup
      else if !p.has66 && k = .qdq then .notInGroup
      else
        match takeModRM c (c.addrSize p.has67) (rex.getD Ext.none) p.seg r with
        | none => outOfBytes n
        | some (q, rest) =>
          if p.has66 then
            .instr (mkXmm k ⟨n - rest.length, p.hasF0⟩ (regNum (rex.getD Ext.none).r q.reg)
              (q.vecSrc (rex.getD Ext.none)))
          else
            match mkMm k ⟨n - rest.length, p.hasF0⟩ q.reg.toFin q.mmSrc with
            | some i => .instr i
            | none => .notInGroup

/-- Step 3 of spec/30_encoding.md R77 from the VEX fields on; `n` is how many bytes there are in all. -/
def decodeVexBody (c : Ctx) (n : Nat) (p : Prefixes) (three : Bool) (r : List Byte) : Decoded :=
  match takeVex c three r with
  | none => outOfBytes n
  | some (v, r1) =>
    if v.map ≠ 1#5 || v.pp ≠ 1#2 then .notInGroup
    else
      match r1 with
      | [] => outOfBytes n
      | op :: r2 =>
        match elemOf op with
        | none => .notInGroup
        | some k =>
          match takeModRM c (c.addrSize p.has67) v.ext p.seg r2 with
          | none => outOfBytes n
          | some (q, rest) =>
            .instr (mkVex v.l k ⟨n - rest.length, p.hasF0⟩ (regNum v.ext.r q.reg) v.vvvv.toFin
              (q.vecSrc v.ext))

/-- What makes a VEX prefix `#UD` before its fields are read (spec/30_encoding.md R74, R77 step 3). -/
def vexBarred (c : Ctx) (p : Prefixes) (rex : Option Ext) : Bool :=
  p.hasF0 || p.has66 || p.hasF2 || p.hasF3 || rex.isSome || c.mode = .real || c.mode = .v8086

/-- Step 3 of spec/30_encoding.md R77. An instruction longer than 15 bytes is `#GP(0)` before it is `#UD`
(spec/60_exceptions.md R172; log 24). -/
def decodeVex (c : Ctx) (n : Nat) (p : Prefixes) (rex : Option Ext) (three : Bool) (r : List Byte) : Decoded :=
  if vexBarred c p rex then
    (if decodeVexBody c n p three r = .gp then .gp else .ud)
  else decodeVexBody c n p three r

/-- Whether `C5` or `C4` begins a VEX prefix: always in 64-bit mode, elsewhere when bits 7:6 of the next byte
are `11b`, being `LDS` or `LES` otherwise (spec/30_encoding.md R74 (c)). -/
def isVex (c : Ctx) (next : Byte) : Bool := c.long || next.extractLsb 7 6 = 3#2

/-- Steps 3 to 5 of spec/30_encoding.md R77. -/
def decodeOpcode (c : Ctx) (n : Nat) (p : Prefixes) (rex : Option Ext) : List Byte → Decoded
  | [] => outOfBytes n
  | b :: r =>
    if b = 0xC5 || b = 0xC4 then
      match r with
      | [] => outOfBytes n
      | b1 :: r1 =>
        if isVex c b1 then decodeVex c n p rex (b = 0xC4) (b1 :: r1) else .notInGroup
    else if b = 0x0F then decodeLegacy c n p rex r
    else .notInGroup

/-- Steps 1 to 6 of spec/30_encoding.md R77 on all of a byte string. -/
def decodeAll (c : Ctx) (bytes : List Byte) : Decoded :=
  let s := scanPrefixes c Prefixes.empty bytes
  let x := takeRex c s.2
  decodeOpcode c bytes.length s.1 x.1 x.2

/-- The decoder (spec/30_encoding.md R77, R85): what the bytes at the instruction pointer are. At most 15 bytes
are looked at (log 12). -/
def decode (c : Ctx) (bytes : List Byte) : Decoded := decodeAll c (bytes.take maxInstrLen)

/-! ## The encoder -/

/-- The prefix byte that names a segment (spec/30_encoding.md R63). -/
def Seg.byte : Seg → Byte
  | .cs => 0x2E
  | .ss => 0x36
  | .ds => 0x3E
  | .es => 0x26
  | .fs => 0x64
  | .gs => 0x65

/-- The high bit of a register number. -/
def hiBit (r : Fin 16) : Bool := (BitVec.ofFin r : BitVec 4).getLsbD 3

/-- The low three bits of a register number. -/
def lowBits (r : Fin 16) : BitVec 3 := (BitVec.ofFin r : BitVec 4).extractLsb 2 0

/-- Whether a memory operand needs a SIB byte: an index, a base whose low bits are `100b`, or an absolute
address in 64-bit mode, where ModRM alone would be RIP-relative (spec/30_encoding.md R65, R67). -/
def MemOp.needsSib (c : Ctx) (m : MemOp) : Bool :=
  match m.asize with
  | .a16 => false
  | _ =>
    match m.base, m.index with
    | _, some _ => true
    | .gpr b, none => lowBits b = 4#3
    | .none, none => c.long
    | .next, none => false

/-- Whether the displacement fits in one byte (spec/30_encoding.md R66). -/
def dispFits8 (d : BitVec 32) : Bool := d = (d.setWidth 8).signExtend 32

/-- The shortest `mod` field for a memory operand (spec/30_encoding.md R67, R68). -/
def MemOp.mod (m : MemOp) : BitVec 2 :=
  match m.base with
  | .none => 0
  | .next => 0
  | .gpr b =>
    if m.disp = 0 && !(match m.asize with | .a16 => b = 5 && m.index = none | _ => lowBits b = 5#3) then 0
    else if dispFits8 m.disp then 1
    else 2

/-- How many displacement bytes follow (spec/30_encoding.md R66 to R68). -/
def MemOp.dispLen (m : MemOp) : Nat :=
  let full := match m.asize with | .a16 => 2 | _ => 4
  match m.base with
  | .none => full
  | .next => full
  | .gpr _ => if m.mod = 0 then 0 else if m.mod = 1 then 1 else full

/-- The displacement bytes, little-endian (spec/30_encoding.md R66). -/
def dispBytes (n : Nat) (d : BitVec 32) : List Byte :=
  (List.range n).map fun k => d.extractLsb' (8 * k) 8

/-- The `rm` field of 16-bit addressing (spec/30_encoding.md R68). -/
def rm16 (base : AddrBase) (index : Option (Fin 16 × Fin 4)) : BitVec 3 :=
  match base, index with
  | .gpr b, some (i, _) =>
    if b = 3 then (if i = 6 then 0 else 1) else (if i = 6 then 2 else 3)
  | .gpr b, none => if b = 6 then 4 else if b = 7 then 5 else if b = 5 then 6 else 7
  | _, _ => 6

/-- The `rm` field of a memory operand (spec/30_encoding.md R67, R68). -/
def MemOp.rm (c : Ctx) (m : MemOp) : BitVec 3 :=
  match m.asize with
  | .a16 => rm16 m.base m.index
  | _ =>
    if m.needsSib c then 4
    else
      match m.base with
      | .gpr b => lowBits b
      | _ => 5

/-- The SIB byte of a memory operand (spec/30_encoding.md R65). -/
def MemOp.sib (m : MemOp) : Byte :=
  let scale : BitVec 2 := match m.index with | some (_, k) => BitVec.ofFin k | none => 0
  let index : BitVec 3 := match m.index with | some (i, _) => lowBits i | none => 4
  let base : BitVec 3 := match m.base with | .gpr b => lowBits b | _ => 5
  scale ++ index ++ base

/-- The bytes of a memory operand after its ModRM byte. -/
def MemOp.tail (c : Ctx) (m : MemOp) : List Byte :=
  (if m.needsSib c then [m.sib] else []) ++ dispBytes m.dispLen m.disp

/-- The extension bits `X` and `B` a memory operand needs. -/
def MemOp.ext (m : MemOp) (r : Bool) : Ext :=
  { r := r
    x := match m.index with | some (i, _) => hiBit i | none => false
    b := match m.base with | .gpr b => hiBit b | _ => false }

/-- ModRM with what follows it, from the `reg` bits and the second source (spec/30_encoding.md R64, R76). -/
def modRMBytes (c : Ctx) (reg : BitVec 3) : Sum (BitVec 3) MemOp → List Byte
  | .inl n => [3#2 ++ reg ++ n]
  | .inr m => (m.mod ++ reg ++ m.rm c) :: m.tail c

/-- The `67` prefix, when the operand's address size is not the default (spec/30_encoding.md R69). -/
def addrPrefix (c : Ctx) : Sum (BitVec 3) MemOp → List Byte
  | .inl _ => []
  | .inr m => if m.asize = c.defaultAddr then [] else [0x67]

/-- The REX prefix, when an extension bit is set (spec/30_encoding.md R73); `W` is 0. -/
def rexBytes (e : Ext) : List Byte :=
  if e = Ext.none then []
  else [4#4 ++ BitVec.ofBool false ++ BitVec.ofBool e.r ++ BitVec.ofBool e.x ++ BitVec.ofBool e.b]

/-- The VEX prefix, of two bytes where `X` and `B` are 0, else of three; `pp = 01`, map `0F`, `W` is 0
(spec/30_encoding.md R71, R72). -/
def vexBytes (e : Ext) (a : Fin 16) (l : Bool) : List Byte :=
  let v : BitVec 4 := ~~~ (BitVec.ofFin a : BitVec 4)
  if e.x || e.b then
    [0xC4, BitVec.ofBool (!e.r) ++ BitVec.ofBool (!e.x) ++ BitVec.ofBool (!e.b) ++ 1#5,
      BitVec.ofBool false ++ v ++ BitVec.ofBool l ++ 1#2]
  else [0xC5, BitVec.ofBool (!e.r) ++ v ++ BitVec.ofBool l ++ 1#2]

/-- The opcode byte (spec/30_encoding.md R61). -/
def Elem.byte : Elem → Byte
  | .bw => 0x60
  | .wd => 0x61
  | .dq => 0x62
  | .qdq => 0x6C

/-- The `r/m` operand of an MMX form as encoded. -/
def RegMem.mmField : RegMem 8 → Sum (BitVec 3) MemOp
  | .reg n => .inl (BitVec.ofFin n)
  | .mem m => .inr m

/-- The `r/m` operand of a vector form as encoded. -/
def RegMem.vecField : RegMem 16 → Sum (BitVec 3) MemOp
  | .reg n => .inl (lowBits n)
  | .mem m => .inr m

/-- The extension bits of an MMX form: only an address needs any (spec/30_encoding.md R73). -/
def RegMem.mmExt : RegMem 8 → Ext
  | .reg _ => Ext.none
  | .mem m => m.ext false

/-- The extension bits of a vector form. -/
def RegMem.vecExt (d : Fin 16) : RegMem 16 → Ext
  | .reg n => { r := hiBit d, x := false, b := hiBit n }
  | .mem m => m.ext (hiBit d)

/-- The segment the padding prefixes name: the memory operand's own, or `DS`, which a register operand does
not look at (spec/30_encoding.md R63; log 34). -/
def Shape.padSeg : Shape → Seg
  | .mmx _ (.mem m) => m.seg
  | .sse _ (.mem m) => m.seg
  | .vex _ _ _ (.mem m) => m.seg
  | _ => .ds

/-- Whether the operand's segment is one only an override prefix can give (spec/30_encoding.md R70). -/
def Shape.needsOverride : Shape → Bool
  | .mmx _ (.mem m) => m.seg ≠ defaultSeg m.base
  | .sse _ (.mem m) => m.seg ≠ defaultSeg m.base
  | .vex _ _ _ (.mem m) => m.seg ≠ defaultSeg m.base
  | _ => false

/-- The shortest bytes of an instruction without segment prefixes. -/
def Shape.core (c : Ctx) (lock : Bool) (k : Elem) : Shape → List Byte
  | .mmx d src =>
    addrPrefix c src.mmField ++ (if lock then [0xF0] else []) ++ rexBytes src.mmExt
      ++ [0x0F, k.byte] ++ modRMBytes c (BitVec.ofFin d) src.mmField
  | .sse d src =>
    addrPrefix c src.vecField ++ (if lock then [0xF0] else []) ++ [0x66] ++ rexBytes (src.vecExt d)
      ++ [0x0F, k.byte] ++ modRMBytes c (lowBits d) src.vecField
  | .vex l d a src =>
    addrPrefix c src.vecField ++ (if lock then [0xF0] else []) ++ vexBytes (src.vecExt d) a l
      ++ [k.byte] ++ modRMBytes c (lowBits d) src.vecField

/-- The bytes of an instruction without segment prefixes. -/
def Instr.core (c : Ctx) (i : Instr) : List Byte := i.shape.core c i.enc.lock i.elem

/-- The length of the shortest encoding. -/
def Instr.minLen (c : Ctx) (i : Instr) : Nat :=
  (i.core c).length + (if i.shape.needsOverride then 1 else 0)

/-- The length an instruction carries is one its encoding can have. -/
def Instr.lenFits (c : Ctx) (i : Instr) : Bool := i.minLen c ≤ i.enc.len

/-- The encoder: the shortest encoding, filled up to the length the instruction carries with segment prefixes,
which may be repeated (spec/30_encoding.md R63; log 34). -/
def Instr.encode (c : Ctx) (i : Instr) : List Byte :=
  List.replicate (i.enc.len - (i.core c).length) i.shape.padSeg.byte ++ i.core c

/-! ## The host's reading of a table word -/

/-- The `n` bytes of a table word with its leftmost byte first, as spec/opcode_table.json writes `match`
(spec/30_encoding.md R77). -/
def bytesLeftFirst (n w : Nat) : List Byte :=
  (List.range n).map fun k => BitVec.ofNat 8 (w >>> (8 * (n - 1 - k)))

/-- The `n` bytes of a word with its lowest byte first. -/
def bytesLowFirst (n w : Nat) : List Byte :=
  (List.range n).map fun k => BitVec.ofNat 8 (w >>> (8 * k))

/-- Operand bytes of zeros, up to the longest instruction. -/
def padded (bs : List Byte) : List Byte := bs ++ List.replicate (maxInstrLen - bs.length) 0

/-- The context a table word is read in: 64-bit mode, the only one where every bit the table leaves free
belongs to the row (log 6). -/
def tableCtx : Ctx := ⟨.long64, false⟩

/-- Whether the decoder answers a form. -/
def Decoded.instr? : Decoded → Option Instr
  | .instr i => some i
  | .ud => none
  | .gp => none
  | .notInGroup => none
  | .textEnds => none

/-- The bytes of a table word: leftmost byte first, as the table numbers them; lowest byte first where only
that reading is an instruction (log 7). -/
def tableBytes (nbits w : Nat) : List Byte :=
  let a := padded (bytesLeftFirst (nbits / 8) w)
  let b := padded (bytesLowFirst (nbits / 8) w)
  if (decode tableCtx a).instr?.isSome then a
  else if (decode tableCtx b).instr?.isSome then b
  else a

/-- The instruction the decoder reads from a table word. -/
def decodeTableWord (nbits w : Nat) : Option Instr := (decode tableCtx (tableBytes nbits w)).instr?

end Sys2Proof
end

