-- ==== Sys2Proof/Machine/Flags.lean ====
section
/-! DEFINITION. The named bits of the flag, control and status registers (spec/10_state.md R28, R30, R32), and
the conditions computed from them. No form of the group writes a flag: "Flags Affected: None" (R28), "Numeric
Exceptions: None" (R29). -/

namespace Sys2Proof.Machine

/-- `CR0.PE`, bit 0: protected mode. -/
def State.pe (s : State) : Bool := s.cr0.getLsbD 0

/-- `CR0.EM`, bit 2: x87 emulation. -/
def State.em (s : State) : Bool := s.cr0.getLsbD 2

/-- `CR0.TS`, bit 3: task switched. -/
def State.ts (s : State) : Bool := s.cr0.getLsbD 3

/-- `CR0.AM`, bit 18: alignment mask. -/
def State.am (s : State) : Bool := s.cr0.getLsbD 18

/-- `CR4.OSFXSR`, bit 9: SSE enabled. -/
def State.osfxsr (s : State) : Bool := s.cr4.getLsbD 9

/-- `CR4.OSXSAVE`, bit 18: `XCR0` enabled. -/
def State.osxsave (s : State) : Bool := s.cr4.getLsbD 18

/-- `XCR0[2:1] = 11b`: XMM and YMM state enabled. -/
def State.avxState (s : State) : Bool := s.xcr0.extractLsb 2 1 = 3#2

/-- `IA32_EFER.LMA`, bit 10: long mode active. -/
def State.lma (s : State) : Bool := s.efer.getLsbD 10

/-- `EFLAGS.VM`, bit 17: virtual-8086 mode. -/
def State.vm (s : State) : Bool := s.eflags.getLsbD 17

/-- `EFLAGS.AC`, bit 18: alignment check. -/
def State.acFlag (s : State) : Bool := s.eflags.getLsbD 18

/-- `ES` of the x87 status word, bit 7: an unmasked x87 exception is pending. -/
def State.x87Pending (s : State) : Bool := s.x87Status.getLsbD 7

/-- `TOS` of the x87 status word, bits 13:11 (spec/10_state.md R32). -/
def State.x87Tos (s : State) : BitVec 3 := s.x87Status.extractLsb 13 11

/-- CPL 3, user code. -/
def State.user (s : State) : Bool := s.cpl = 3#2

/-- `ALIGN_CHECK`: `CR0.AM = 1`, `EFLAGS.AC = 1`, `CPL = 3` (spec/60_exceptions.md R171). -/
def State.alignCheck (s : State) : Bool := s.am && s.acFlag && s.user

/-- `MODE` from the bits spec/10_state.md R30 gives for it (log 4). -/
def State.mode (s : State) : Mode :=
  if s.pe then
    if s.lma then (if s.cs.l then .long64 else .compat)
    else if s.vm then .v8086
    else if s.cs.d then .prot32
    else .prot16
  else .real

/-- What the decoder reads of the machine (spec/30_encoding.md R69, R77). -/
def State.ctx (s : State) : Ctx := ⟨s.mode, s.cs.d⟩

end Sys2Proof.Machine
end

