-- ==== Sys2Proof/Machine/Ops.lean ====
section
/-! DEFINITION. The named operations over registers and memory: register files, the instruction pointer, taking
an exception, the byte store, address translation, the read primitive of spec/20_memory.md R58, and the fetch. -/

namespace Sys2Proof.Machine

/-! ## Register files (spec/00_scope.md R10, spec/10_state.md R21 to R25) -/

/-- `MM[i]`. -/
def State.readMm (s : State) (i : Fin 8) : BitVec 64 := s.mm[i]

/-- `MM[i] <- v`, all 64 bits. -/
def State.writeMm (s : State) (i : Fin 8) (v : BitVec 64) : State := { s with mm := s.mm.set i v }

/-- `YMM[i]`. -/
def State.readYmm (s : State) (i : Fin 16) : BitVec 256 := s.ymm[i]

/-- `YMM[i] <- v`, all 256 bits. -/
def State.writeYmm (s : State) (i : Fin 16) (v : BitVec 256) : State := { s with ymm := s.ymm.set i v }

/-- `XMM[i]`, bits 127:0 of `YMM[i]` (R23). -/
def State.readXmm (s : State) (i : Fin 16) : BitVec 128 := (s.readYmm i).extractLsb 127 0

/-- Bits `VLMAX-1:128` of vector register `i`. -/
def State.readUpper (s : State) (i : Fin 16) : BitVec 128 := (s.readYmm i).extractLsb 255 128

/-- `XMM[i] <- v`, bits `VLMAX-1:128` unchanged: the legacy SSE2 write (R23). -/
def State.writeXmmKeep (s : State) (i : Fin 16) (v : BitVec 128) : State := s.writeYmm i (s.readUpper i ++ v)

/-- Bits 127:0 written, bits `VLMAX-1:128` zeroed: the VEX.128 write (R23). -/
def State.writeXmmZero (s : State) (i : Fin 16) (v : BitVec 128) : State := s.writeYmm i (0#128 ++ v)

/-- The low bits of a 64-bit value at an address size, zero-extended. -/
def truncTo (a : AddrSize) (v : Word) : Word :=
  match a with
  | .a16 => (v.setWidth 16).setWidth 64
  | .a32 => (v.setWidth 32).setWidth 64
  | .a64 => v

/-- `x[i]`, a general register at the address size in force (R25). -/
def State.readGpr (s : State) (a : AddrSize) (r : Fin 16) : Word := truncTo a s.gpr[r]

/-- The width of the code: 64 in 64-bit mode, else that of the default address size (spec/10_state.md R27). -/
def State.codeSize (s : State) : AddrSize := s.ctx.defaultAddr

/-- `pc <- pc + len`, truncated to the width in force (spec/10_state.md R27; log 35). -/
def State.advance (s : State) (len : Nat) : State :=
  { s with rip := truncTo s.codeSize (s.rip + BitVec.ofNat 64 len) }

/-- What a completed MMX form does to x87 state: `TOS` 0, every tag valid, bits 79:64 of the aliased register
ones, and `x87_dirty` (spec/10_state.md R32; log 14). -/
def State.x87SideEffects (s : State) (i : Fin 8) : State :=
  { s with
    x87Status := s.x87Status &&& 0xC7FF
    x87Tag := 0
    x87High := s.x87High.set i 0xFFFF
    x87Dirty := true }

/-! ## Taking an exception (spec/60_exceptions.md R160, R161, R173, R176) -/

/-- The vector number (R161). -/
def Exception.vector : Exception → Nat
  | .ud => 6
  | .nm => 7
  | .ss => 12
  | .gp => 13
  | .pf _ _ => 14
  | .mf => 16
  | .ac => 17

/-- The error code (R161); in real-address mode none is pushed. -/
def Exception.errorCode (m : Mode) (x : Exception) : Option (BitVec 32) :=
  if m = .real then none
  else
    match x with
    | .ud => none
    | .nm => none
    | .ss => some 0
    | .gp => some 0
    | .pf code _ => some code
    | .mf => none
    | .ac => some 0

/-- The fault outcome of an exception, with the saved instruction pointer (R173). -/
def Exception.toFault (x : Exception) (savedPc : BitVec 64) : Fault :=
  match x with
  | .ud => .invalidOpcode savedPc
  | .nm => .deviceNotAvailable savedPc
  | .ss => .stackSegment savedPc
  | .gp => .generalProtection savedPc
  | .pf code address => .pageFault savedPc code address
  | .mf => .x87Error savedPc
  | .ac => .alignmentCheck savedPc

/-- The exception a fault stands for. -/
def Fault.exception : Fault → Exception
  | .invalidOpcode _ => .ud
  | .deviceNotAvailable _ => .nm
  | .stackSegment _ => .ss
  | .generalProtection _ => .gp
  | .pageFault _ code address => .pf code address
  | .x87Error _ => .mf
  | .alignmentCheck _ => .ac

/-- The saved instruction pointer of a fault. -/
def Fault.savedPc : Fault → BitVec 64
  | .invalidOpcode pc => pc
  | .deviceNotAvailable pc => pc
  | .stackSegment pc => pc
  | .generalProtection pc => pc
  | .pageFault pc _ _ => pc
  | .x87Error pc => pc
  | .alignmentCheck pc => pc

/-- Taking an exception. The spec describes no delivery (R176): the step ends in the named fault, no state
changes, and the saved instruction pointer is that of the instruction (R160, R173; log 23). No instruction of
the group returns from one (R177). -/
def takeException (x : Exception) (s : State) : Host.Outcome State Fault Refusal := .fault (x.toFault s.rip)

/-- Why an operand could not be read: an exception, or a refusal. -/
inductive Stop where
  | raise (x : Exception)
  | refuse (r : Refusal)
  deriving DecidableEq, Repr

/-- The outcome of a stop. -/
def Stop.outcome (s : State) : Stop → Host.Outcome State Fault Refusal
  | .raise x => takeException x s
  | .refuse r => .refused r

/-! ## The byte store (spec/10_state.md R33, spec/20_memory.md R42) -/

/-- The byte listed at an address. -/
def cellAt : Memory → Nat → Option Byte
  | [], _ => none
  | (a, b) :: r, k => if k = a then some b else cellAt r k

/-- The store with a byte listed at an address, in rising order. -/
def putCell : Memory → Nat → Byte → Memory
  | [], k, v => [(k, v)]
  | (a, b) :: r, k, v =>
    if k < a then (k, v) :: (a, b) :: r
    else if k = a then (k, v) :: r
    else (a, b) :: putCell r k v

/-- The store with nothing listed at an address. -/
def dropCell : Memory → Nat → Memory
  | [], _ => []
  | (a, b) :: r, k => if k = a then r else (a, b) :: dropCell r k

/-- What an address that is not listed reads as (DESIGN CHOICE, log 10). -/
def unlistedByte : Byte := 0

/-- `Mem[a]`. -/
def byteAt (m : Memory) (a : Nat) : Byte := (cellAt m a).getD unlistedByte

/-- `Mem[a] <- v`; no form of the group does this (spec/00_scope.md R10), it is how a memory is set up. Writing
what an unlisted address reads as removes the entry. -/
def writeByte (m : Memory) (a : Nat) (v : Byte) : Memory :=
  if v = unlistedByte then dropCell m a else putCell m a v

/-- Bytes stored one after another from an address. -/
def writeBytes (m : Memory) (a : Nat) : List Byte → Memory
  | [] => m
  | b :: r => writeBytes (writeByte m a b) (a + 1) r

/-- Addresses strictly rising from a lower bound. -/
def risingFrom : Nat → Memory → Bool
  | _, [] => true
  | lo, (a, _) :: r => lo ≤ a && risingFrom (a + 1) r

/-- The canonical form of the program text: addresses strictly rising. -/
def textWf (m : Memory) : Bool := risingFrom 0 m

/-- The canonical form of memory: addresses strictly rising, no entry equal to an unlisted one. -/
def Memory.wf (m : Memory) : Bool := risingFrom 0 m && m.all (fun c => c.2 ≠ unlistedByte)

/-- A little-endian value from bytes, lowest address first (spec/20_memory.md R42). -/
def leNat : List Byte → Nat
  | [] => 0
  | b :: r => b.toNat + 256 * leNat r

/-! ## Address translation (spec/20_memory.md R50, spec/60_exceptions.md R169, R170, R174) -/

/-- A segment register (spec/10_state.md R26). -/
def State.segReg (s : State) : Seg → SegReg
  | .es => s.es
  | .cs => s.cs
  | .ss => s.ss
  | .ds => s.ds
  | .fs => s.fs
  | .gs => s.gs

/-- Bits 63:47 all equal (R50). -/
def canonical (a : Word) : Bool := a.extractLsb 63 47 = 0#17 || a.extractLsb 63 47 = BitVec.allOnes 17

/-- `base(seg)`: in 64-bit mode 0 for every segment but `FS` and `GS` (R50). -/
def State.segBase (s : State) (g : Seg) : Word :=
  if s.mode = .long64 then
    match g with
    | .fs => s.fs.base
    | .gs => s.gs.base
    | _ => 0
  else (s.segReg g).base

/-- A linear address at the width of the mode: 64 bits in 64-bit mode, 32 elsewhere (log 17). -/
def State.linTrunc (s : State) (a : Word) : Word := if s.mode = .long64 then a else truncTo .a32 a

/-- `linear(seg, ea)` (R50). -/
def State.linear (s : State) (g : Seg) (ea : Word) : Word := s.linTrunc (s.segBase g + ea)

/-- The linear addresses of the `n` bytes of an operand: byte `k` is at `ea + k`, modulo 2^64 and not modulo the
address size, so that an operand past the last address of 64-bit mode goes on at 0 (DESIGN CHOICE, log 38). -/
def State.linearBytes (s : State) (g : Seg) (ea : Word) (n : Nat) : List Word :=
  (List.range n).map fun k => s.linear g (ea + BitVec.ofNat 64 k)

/-- A null selector: index and table bits zero (log 16). -/
def SegReg.null (r : SegReg) : Bool := r.selector.extractLsb 15 2 = 0#14

/-- Every byte of the operand within the segment limit (spec/20_memory.md R50; log 16). -/
def SegReg.within (r : SegReg) (ea : Word) (n : Nat) : Bool := ea.toNat + n ≤ r.limit.toNat + 1

/-- Every byte of the operand within the limit of a readable, non-null segment
(spec/60_exceptions.md R169 (b); log 16). -/
def SegReg.allows (r : SegReg) (ea : Word) (n : Nat) : Bool := r.readable && !r.null && r.within ea n

/-- Whether the segment check passes: within 0 to `FFFFH` and within the limit in real-address and virtual-8086 mode
(R169 (d), spec/20_memory.md R50), within the segment in protected and compatibility mode (R169 (b), R170),
canonical in 64-bit mode (R169 (c), R170; log 18, log 38). -/
def State.segOk (s : State) (g : Seg) (ea : Word) (n : Nat) : Bool :=
  match s.mode with
  | .real => ea.toNat + n ≤ 0x10000 && (s.segReg g).within ea n
  | .v8086 => ea.toNat + n ≤ 0x10000 && (s.segReg g).within ea n
  | .prot16 => (s.segReg g).allows ea n
  | .prot32 => (s.segReg g).allows ea n
  | .compat => (s.segReg g).allows ea n
  | .long64 => (s.linearBytes g ea n).all canonical

/-- The exception of a failed segment check: `#SS(0)` for the stack segment, but `#GP(0)` in real-address and
virtual-8086 mode (R169 (d), R170; log 36). -/
def State.segFault (s : State) (g : Seg) : Exception :=
  if g = .ss && s.mode ≠ .real && s.mode ≠ .v8086 then .ss else .gp

/-- The page-fault error code of a data read: `P` bit 0, `W/R` bit 1 = 0, `U/S` bit 2 = 1 iff CPL = 3, `RSVD`
bit 3, `I/D` bit 4 = 0 (R161). -/
def State.pfCode (s : State) (present reserved : Bool) : BitVec 32 :=
  (if present then 1#32 else 0) ||| (if s.user then 4#32 else 0) ||| (if reserved then 8#32 else 0)

/-- The page-map entry of a linear page. -/
def findPage : List PageEntry → Nat → Option PageEntry
  | [], _ => none
  | e :: r, p => if e.page = p then some e else findPage r p

/-- The page map, when the mode can have paging on (R174) and it is. -/
def State.pageMap (s : State) : Option (List PageEntry) :=
  if s.mode = .real then none else s.config.paging

/-- One byte's linear address to its address in memory, or a page fault (R174; pages of 4096 bytes, log 19). -/
def State.pageWalk (s : State) (a : Word) : Except Exception Nat :=
  match s.pageMap with
  | none => .ok a.toNat
  | some pages =>
    match findPage pages (a.toNat / 4096) with
    | none => .error (.pf (s.pfCode false false) a)
    | some e =>
      if e.reserved then .error (.pf (s.pfCode true true) a)
      else if s.user && !e.user then .error (.pf (s.pfCode true false) a)
      else .ok (e.frame * 4096 + a.toNat % 4096)

/-- The page walk of each byte in turn; the first that faults is the one reported (log 19). -/
def State.pageWalks (s : State) : List Word → Except Exception (List Nat)
  | [] => .ok []
  | a :: r =>
    match s.pageWalk a with
    | .error x => .error x
    | .ok p =>
      match s.pageWalks r with
      | .error x => .error x
      | .ok ps => .ok (p :: ps)

/-- What R50 has `Translate` at least do, in the form the model gives it: the segment check, then the page walk
(spec/60_exceptions.md R172). -/
def State.walk (s : State) (g : Seg) (ea : Word) (n : Nat) : Except Exception (List Nat) :=
  if s.segOk g ea n then s.pageWalks (s.linearBytes g ea n) else .error (s.segFault g)

/-- An answer of the oracle for `n` bytes; as many addresses as there are bytes, or it is none. -/
def answerOutcome (n : Nat) : Answer → Option (Except Exception (List Nat))
  | .addresses as => if as.length = n then some (.ok as) else none
  | .ss => some (.error .ss)
  | .gp => some (.error .gp)
  | .pf code address => some (.error (.pf code address))

/-- The oracle's answer for an operand: that of the first row that is for it. -/
def findAnswer (g : Seg) (ea : Word) (n : Nat) : List OracleRow → Option (Except Exception (List Nat))
  | [] => none
  | e :: r =>
    if e.seg = g && e.ea = ea && e.n = n then
      match answerOutcome n e.answer with
      | some x => some x
      | none => findAnswer g ea n r
    else findAnswer g ea n r

/-- What the open parameter `Translate` answers for an operand, if it has a row (spec/00_scope.md R7; log 39). -/
def State.oracle (s : State) (g : Seg) (ea : Word) (n : Nat) : Option (Except Exception (List Nat)) :=
  findAnswer g ea n s.config.oracle

/-- `Translate(seg, ea, n, read, state)`: the addresses of the `n` bytes, or a fault (R50). The oracle's answer where
it has one, else the segment check and page walk (log 39). -/
def State.translate (s : State) (g : Seg) (ea : Word) (n : Nat) : Except Exception (List Nat) :=
  match s.oracle g ea n with
  | some x => x
  | none => s.walk g ea n

/-! ## The read primitive (spec/20_memory.md R58) -/

/-- The class of a form, as far as its memory checks go (R58). -/
inductive OpClass where
  | mmx | sse | vex
  deriving DecidableEq, Repr

/-- Whether step 1 of R58 finds the operand misaligned: legacy SSE2 forms on 16 bytes (R43), VEX forms on the
operand's size when `VEX_ALIGN16` (R44). -/
def State.misaligned (s : State) (c : OpClass) (g : Seg) (ea : Word) (n : Nat) : Bool :=
  match c with
  | .mmx => false
  | .sse => (s.linear g ea).toNat % 16 ≠ 0
  | .vex => s.config.vexAlign16 && (s.linear g ea).toNat % n ≠ 0

/-- Whether step 3 of R58 raises `#AC(0)`: MMX forms, under `ALIGN_CHECK`, on 4 bytes (R45). -/
def State.alignTrap (s : State) (c : OpClass) (g : Seg) (ea : Word) : Bool :=
  c = .mmx && s.alignCheck && (s.linear g ea).toNat % 4 ≠ 0

/-- An address of ordinary memory (R47). -/
def ordinaryAt (rs : List Region) (a : Nat) : Bool := rs.any fun r => r.base ≤ a && a < r.base + r.size

/-- How many bytes the read fetches: the low 8 of a 128-bit operand when `FETCH64` (R41, R46). -/
def State.fetchedBytes (s : State) (n : Nat) : Nat := if n = 16 && s.config.fetch64 then 8 else n

/-- `MemRead(seg, ea, n)` with the checks of R58 in their order; all `n` bytes are checked (R46). An operand that
is not wholly in ordinary memory is refused once no fault is left to raise (R47; log 22). The bytes are in
address order. -/
def State.memRead (s : State) (c : OpClass) (g : Seg) (ea : Word) (n : Nat) : Except Stop (List Byte) :=
  if s.misaligned c g ea n then .error (.raise .gp)
  else
    match s.translate g ea n with
    | .error x => .error (.raise x)
    | .ok addrs =>
      if s.alignTrap c g ea then .error (.raise .ac)
      else if addrs.all (ordinaryAt s.config.ordinary) then
        .ok ((addrs.take (s.fetchedBytes n)).map (byteAt s.mem))
      else .error (.refuse .notOrdinaryMemory)

/-! ## The fetch (spec/20_memory.md R40, R48, R55, spec/10_state.md R27, R34) -/

/-- The linear address of byte `k` of the instruction at the instruction pointer (log 11, log 37). -/
def State.textAddr (s : State) (k : Nat) : Nat :=
  (s.linear .cs (truncTo s.codeSize (s.rip + BitVec.ofNat 64 k))).toNat

/-- The program text from byte `k` of the instruction on, at most `n` bytes, up to the first gap. -/
def State.fetchFrom (s : State) : Nat → Nat → List Byte
  | _, 0 => []
  | k, n + 1 =>
    match cellAt s.text (s.textAddr k) with
    | none => []
    | some b => b :: s.fetchFrom (k + 1) n

/-- The bytes at the instruction pointer, at most 15 (log 12). -/
def State.fetch (s : State) : List Byte := s.fetchFrom 0 maxInstrLen

/-- Whether the fetch itself faults: a non-canonical instruction pointer in 64-bit mode
(spec/10_state.md R27; log 13). -/
def State.fetchFaults (s : State) : Bool := s.mode = .long64 && !canonical s.rip

/-- Bytes placed in the program text from byte `k` of the instruction pointer on. -/
def State.placeText (s : State) (m : Memory) (k : Nat) : List Byte → Memory
  | [] => m
  | b :: r => s.placeText (putCell m (s.textAddr k) b) (k + 1) r

/-- The machine put into 64-bit mode: `CR0.PE`, `IA32_EFER.LMA` and `CS.L` set (spec/10_state.md R30; log 6). -/
def State.enterLong64 (s : State) : State :=
  { s with cr0 := s.cr0 ||| 1#32, efer := s.efer ||| 0x400#64, cs := { s.cs with l := true } }

/-! ## INIT# (spec/70_reset_and_hazards.md R190) -/

/-- What `INIT#` leaves: the column "after INIT#" of R190, `CD` and `NW` being bits 30 and 29 of `CR0` (log 33).
R190 has no row for `x87_dirty`, which is kept (DESIGN CHOICE, log 14), nor for `CR2` (log 9). -/
def State.afterInit (s : State) : State :=
  { s with
    gpr := State.reset.gpr
    rip := State.reset.rip
    eflags := State.reset.eflags
    es := State.reset.es
    cs := State.reset.cs
    ss := State.reset.ss
    ds := State.reset.ds
    fs := State.reset.fs
    gs := State.reset.gs
    cpl := State.reset.cpl
    cr0 := (s.cr0 &&& 0x60000000) ||| (State.reset.cr0 &&& 0x9FFFFFFF)
    cr2 := State.reset.cr2
    cr4 := State.reset.cr4
    efer := State.reset.efer }

end Sys2Proof.Machine
end

