-- ==== Sys2Proof/Machine/Operands.lean ====
section
/-! DEFINITION. Every operand form: effective addresses (spec/30_encoding.md R65 to R69) and the second source as
a register or memory (R75, R76, spec/20_memory.md R41). -/

namespace Sys2Proof.Machine

/-- The base of an effective address; `next` is the address of the byte after the instruction (R67). -/
def State.baseValue (s : State) (len : Nat) (a : AddrSize) : AddrBase → Word
  | .none => 0
  | .gpr r => s.readGpr a r
  | .next => s.rip + BitVec.ofNat 64 len

/-- The scaled index (R65). -/
def State.indexValue (s : State) (a : AddrSize) : Option (Fin 16 × Fin 4) → Word
  | none => 0
  | some (r, k) => s.readGpr a r <<< k.val

/-- The effective address: base, scaled index and displacement, modulo the address size, zero-extended to 64 bits
(R67, R68). -/
def State.effAddr (s : State) (len : Nat) (m : MemOp) : Word :=
  truncTo m.asize
    (s.baseValue len m.asize m.base + s.indexValue m.asize m.index + m.disp.signExtend 64)

/-- The bytes of a memory operand of `n` bytes. -/
def State.readMem (s : State) (c : OpClass) (len : Nat) (m : MemOp) (n : Nat) : Except Stop (List Byte) :=
  s.memRead c m.seg (s.effAddr len m) n

/-- The second source of an MMX form: a register, or 4 bytes of memory zero-extended (spec/41_mmx_forms.md R120
step 5). -/
def State.mmSource (s : State) (len : Nat) : RegMem 8 → Except Stop (BitVec 64)
  | .reg r => .ok (s.readMm r)
  | .mem m =>
    match s.readMem .mmx len m 4 with
    | .error x => .error x
    | .ok bs => .ok (BitVec.ofNat 64 (leNat bs))

/-- The second source of a 128-bit form: a register, or 16 bytes of memory (spec/42_sse_forms.md R130 step 4,
spec/43_vex128_forms.md R140 step 4). -/
def State.xmmSource (s : State) (c : OpClass) (len : Nat) : RegMem 16 → Except Stop (BitVec 128)
  | .reg r => .ok (s.readXmm r)
  | .mem m =>
    match s.readMem c len m 16 with
    | .error x => .error x
    | .ok bs => .ok (BitVec.ofNat 128 (leNat bs))

/-- The second source of a 256-bit form: a register, or 32 bytes of memory (spec/44_vex256_forms.md R150
step 4). -/
def State.ymmSource (s : State) (len : Nat) : RegMem 16 → Except Stop (BitVec 256)
  | .reg r => .ok (s.readYmm r)
  | .mem m =>
    match s.readMem .vex len m 32 with
    | .error x => .error x
    | .ok bs => .ok (BitVec.ofNat 256 (leNat bs))

end Sys2Proof.Machine
end

