-- ==== Sys2Proof/Machine/Mmx.lean ====
section
/-! DEFINITION. The MMX forms (spec/41_mmx_forms.md). -/

namespace Sys2Proof.Machine

/-- `#UD` of an MMX form: `LOCK`, no MMX (spec/60_exceptions.md R162), `CR0.EM = 1` (R166). -/
def State.mmxUd (s : State) (e : Enc) : Bool := e.lock || !s.config.hasMmx || s.em

/-- What an MMX form with result `v` leaves: steps 6 to 8 of R120. -/
def State.mmxResult (s : State) (e : Enc) (d : Fin 8) (v : BitVec 64) : State :=
  ((s.writeMm d v).x87SideEffects d).advance e.len

/-- The common execution of an MMX form with function `f` (R120). -/
def mmxForm (f : BitVec 64 → BitVec 64 → BitVec 64) (e : Enc) (d : Fin 8) (src : RegMem 8) (s : State) :
    Host.Outcome State Fault Refusal :=
  if s.mmxUd e then takeException .ud s
  else if s.ts then takeException .nm s
  else if s.x87Pending then takeException .mf s
  else
    match s.mmSource e.len src with
    | .error x => x.outcome s
    | .ok s2 => .next (s.mmxResult e d (f (s.readMm d) s2))

/-- `PUNPCKLBW mm, mm/m32` (R121). -/
def execPunpcklbwMm (e : Enc) (d : Fin 8) (src : RegMem 8) (s : State) : Host.Outcome State Fault Refusal :=
  mmxForm interleaveBytes64 e d src s

/-- `PUNPCKLWD mm, mm/m32` (R122). -/
def execPunpcklwdMm (e : Enc) (d : Fin 8) (src : RegMem 8) (s : State) : Host.Outcome State Fault Refusal :=
  mmxForm interleaveWords64 e d src s

/-- `PUNPCKLDQ mm, mm/m32` (R123). -/
def execPunpckldqMm (e : Enc) (d : Fin 8) (src : RegMem 8) (s : State) : Host.Outcome State Fault Refusal :=
  mmxForm interleaveDwords64 e d src s

end Sys2Proof.Machine
end

