-- ==== Sys2Proof/Machine/Sse2.lean ====
section
/-! DEFINITION. The legacy SSE2 forms (spec/42_sse_forms.md). -/

namespace Sys2Proof.Machine

/-- `#UD` of a legacy SSE2 form: `LOCK`, no SSE2 (spec/60_exceptions.md R162), `CR0.EM = 1` or
`CR4.OSFXSR = 0` (R163). -/
def State.sseUd (s : State) (e : Enc) : Bool := e.lock || !s.config.hasSse2 || s.em || !s.osfxsr

/-- What a legacy SSE2 form with result `v` leaves: steps 5 and 6 of R130. -/
def State.sseResult (s : State) (e : Enc) (d : Fin 16) (v : BitVec 128) : State :=
  (s.writeXmmKeep d v).advance e.len

/-- The common execution of a legacy SSE2 form with function `f` (R130). -/
def sseForm (f : BitVec 128 → BitVec 128 → BitVec 128) (e : Enc) (d : Fin 16) (src : RegMem 16) (s : State) :
    Host.Outcome State Fault Refusal :=
  if s.sseUd e then takeException .ud s
  else if s.ts then takeException .nm s
  else
    match s.xmmSource .sse e.len src with
    | .error x => x.outcome s
    | .ok s2 => .next (s.sseResult e d (f (s.readXmm d) s2))

/-- `PUNPCKLBW xmm1, xmm2/m128` (R131). -/
def execPunpcklbwXmm (e : Enc) (d : Fin 16) (src : RegMem 16) (s : State) :
    Host.Outcome State Fault Refusal :=
  sseForm interleaveBytes e d src s

/-- `PUNPCKLWD xmm1, xmm2/m128` (R132). -/
def execPunpcklwdXmm (e : Enc) (d : Fin 16) (src : RegMem 16) (s : State) :
    Host.Outcome State Fault Refusal :=
  sseForm interleaveWords e d src s

/-- `PUNPCKLDQ xmm1, xmm2/m128` (R133). -/
def execPunpckldqXmm (e : Enc) (d : Fin 16) (src : RegMem 16) (s : State) :
    Host.Outcome State Fault Refusal :=
  sseForm interleaveDwords e d src s

/-- `PUNPCKLQDQ xmm1, xmm2/m128` (R134). -/
def execPunpcklqdqXmm (e : Enc) (d : Fin 16) (src : RegMem 16) (s : State) :
    Host.Outcome State Fault Refusal :=
  sseForm interleaveQwords e d src s

end Sys2Proof.Machine
end

