-- ==== Sys2Proof/Machine/Vex.lean ====
section
/-! DEFINITION. What the VEX.128 and VEX.256 forms share. -/

namespace Sys2Proof.Machine

/-- `#UD` of every VEX form (spec/60_exceptions.md R164): real-address or virtual-8086 mode, `CR4.OSXSAVE = 0`,
or `XCR0[2:1]` not `11b`. A `66`, `F2`, `F3` or REX prefix before the VEX prefix is `#UD` in the decoder
(spec/30_encoding.md R77 step 3). -/
def State.vexUd (s : State) : Bool :=
  s.mode = .real || s.mode = .v8086 || !s.osxsave || !s.avxState

end Sys2Proof.Machine
end

