-- ==== Sys2Proof/Machine/Vex128.lean ====
section
/-! DEFINITION. The VEX.128 forms (spec/43_vex128_forms.md). -/

namespace Sys2Proof.Machine

/-- `#UD` of a VEX.128 form: `LOCK`, no AVX (spec/60_exceptions.md R162), or R164. -/
def State.vex128Ud (s : State) (e : Enc) : Bool := e.lock || !s.config.hasAvx || s.vexUd

/-- What a VEX.128 form with result `v` leaves: steps 5 and 6 of R140. -/
def State.vex128Result (s : State) (e : Enc) (d : Fin 16) (v : BitVec 128) : State :=
  (s.writeXmmZero d v).advance e.len

/-- The common execution of a VEX.128 form with function `f` (R140). -/
def vex128Form (f : BitVec 128 → BitVec 128 → BitVec 128) (e : Enc) (d a : Fin 16) (src : RegMem 16)
    (s : State) : Host.Outcome State Fault Refusal :=
  if s.vex128Ud e then takeException .ud s
  else if s.ts then takeException .nm s
  else
    match s.xmmSource .vex e.len src with
    | .error x => x.outcome s
    | .ok s2 => .next (s.vex128Result e d (f (s.readXmm a) s2))

/-- `VPUNPCKLBW xmm1, xmm2, xmm3/m128` (R141). -/
def execVpunpcklbwXmm (e : Enc) (d a : Fin 16) (src : RegMem 16) (s : State) :
    Host.Outcome State Fault Refusal :=
  vex128Form interleaveBytes e d a src s

/-- `VPUNPCKLWD xmm1, xmm2, xmm3/m128` (R142). -/
def execVpunpcklwdXmm (e : Enc) (d a : Fin 16) (src : RegMem 16) (s : State) :
    Host.Outcome State Fault Refusal :=
  vex128Form interleaveWords e d a src s

/-- `VPUNPCKLDQ xmm1, xmm2, xmm3/m128` (R143). -/
def execVpunpckldqXmm (e : Enc) (d a : Fin 16) (src : RegMem 16) (s : State) :
    Host.Outcome State Fault Refusal :=
  vex128Form interleaveDwords e d a src s

/-- `VPUNPCKLQDQ xmm1, xmm2, xmm3/m128` (R144). -/
def execVpunpcklqdqXmm (e : Enc) (d a : Fin 16) (src : RegMem 16) (s : State) :
    Host.Outcome State Fault Refusal :=
  vex128Form interleaveQwords e d a src s

end Sys2Proof.Machine
end

