-- ==== Sys2Proof/Machine/Vex256.lean ====
section
/-! DEFINITION. The VEX.256 forms (spec/44_vex256_forms.md). -/

namespace Sys2Proof.Machine

/-- `#UD` of a VEX.256 form: `LOCK`, no AVX2 (spec/60_exceptions.md R162, R165), or R164. -/
def State.vex256Ud (s : State) (e : Enc) : Bool := e.lock || !s.config.hasAvx2 || s.vexUd

/-- What a VEX.256 form with result `v` leaves: steps 5 and 6 of R150. -/
def State.vex256Result (s : State) (e : Enc) (d : Fin 16) (v : BitVec 256) : State :=
  (s.writeYmm d v).advance e.len

/-- The common execution of a VEX.256 form with function `f` (R150). -/
def vex256Form (f : BitVec 256 → BitVec 256 → BitVec 256) (e : Enc) (d a : Fin 16) (src : RegMem 16)
    (s : State) : Host.Outcome State Fault Refusal :=
  if s.vex256Ud e then takeException .ud s
  else if s.ts then takeException .nm s
  else
    match s.ymmSource e.len src with
    | .error x => x.outcome s
    | .ok s2 => .next (s.vex256Result e d (f (s.readYmm a) s2))

/-- `VPUNPCKLBW ymm1, ymm2, ymm3/m256` (R151). -/
def execVpunpcklbwYmm (e : Enc) (d a : Fin 16) (src : RegMem 16) (s : State) :
    Host.Outcome State Fault Refusal :=
  vex256Form interleaveBytes256 e d a src s

/-- `VPUNPCKLWD ymm1, ymm2, ymm3/m256` (R152). -/
def execVpunpcklwdYmm (e : Enc) (d a : Fin 16) (src : RegMem 16) (s : State) :
    Host.Outcome State Fault Refusal :=
  vex256Form interleaveWords256 e d a src s

/-- `VPUNPCKLDQ ymm1, ymm2, ymm3/m256` (R153). -/
def execVpunpckldqYmm (e : Enc) (d a : Fin 16) (src : RegMem 16) (s : State) :
    Host.Outcome State Fault Refusal :=
  vex256Form interleaveDwords256 e d a src s

/-- `VPUNPCKLQDQ ymm1, ymm2, ymm3/m256` (R154). -/
def execVpunpcklqdqYmm (e : Enc) (d a : Fin 16) (src : RegMem 16) (s : State) :
    Host.Outcome State Fault Refusal :=
  vex256Form interleaveQwords256 e d a src s

end Sys2Proof.Machine
end

