-- ==== Sys2Proof/Machine/Dispatch.lean ====
section
/-! DEFINITION. One arm per instruction. -/

namespace Sys2Proof.Machine

def exec (i : Instr) (s : State) : Host.Outcome State Fault Refusal :=
  match i with
  | .punpcklbwMm e d src => Sys2Proof.Machine.execPunpcklbwMm e d src s
  | .punpcklwdMm e d src => Sys2Proof.Machine.execPunpcklwdMm e d src s
  | .punpckldqMm e d src => Sys2Proof.Machine.execPunpckldqMm e d src s
  | .punpcklbwXmm e d src => Sys2Proof.Machine.execPunpcklbwXmm e d src s
  | .punpcklwdXmm e d src => Sys2Proof.Machine.execPunpcklwdXmm e d src s
  | .punpckldqXmm e d src => Sys2Proof.Machine.execPunpckldqXmm e d src s
  | .punpcklqdqXmm e d src => Sys2Proof.Machine.execPunpcklqdqXmm e d src s
  | .vpunpcklbwXmm e d a src => Sys2Proof.Machine.execVpunpcklbwXmm e d a src s
  | .vpunpcklwdXmm e d a src => Sys2Proof.Machine.execVpunpcklwdXmm e d a src s
  | .vpunpckldqXmm e d a src => Sys2Proof.Machine.execVpunpckldqXmm e d a src s
  | .vpunpcklqdqXmm e d a src => Sys2Proof.Machine.execVpunpcklqdqXmm e d a src s
  | .vpunpcklbwYmm e d a src => Sys2Proof.Machine.execVpunpcklbwYmm e d a src s
  | .vpunpcklwdYmm e d a src => Sys2Proof.Machine.execVpunpcklwdYmm e d a src s
  | .vpunpckldqYmm e d a src => Sys2Proof.Machine.execVpunpckldqYmm e d a src s
  | .vpunpcklqdqYmm e d a src => Sys2Proof.Machine.execVpunpcklqdqYmm e d a src s

end Sys2Proof.Machine
end

