-- ==== Sys2Proof/Machine/Step.lean ====
section
/-! DEFINITION. One step (spec/60_exceptions.md R160): fetch, decode, execute. -/

namespace Sys2Proof.Machine

/-- One step of the machine. -/
def step (s : State) : Host.Outcome State Fault Refusal :=
  if s.fetchFaults then takeException .gp s
  else
    match decode s.ctx s.fetch with
    | .instr i => exec i s
    | .ud => takeException .ud s
    | .gp => takeException .gp s
    | .notInGroup => .refused .notInGroup
    | .textEnds => .refused .endOfText

/-- The state with one table word placed in the program text at the instruction pointer, in 64-bit mode, the
mode the table's words are read in (log 5, log 6). -/
def State.withFetchWord (s : State) (nbits w : Nat) : State :=
  { s.enterLong64 with text := s.enterLong64.placeText s.text 0 (tableBytes nbits w) }

end Sys2Proof.Machine
end

