-- ==== Sys2Proof/Safety.lean ====
section
/-! DEFINITION. The terms the statements use: when a class of forms is enabled, when an operand can be read and
what it then is, which `#UD` condition an instruction meets, what a safe step is, and the invariant. -/

namespace Sys2Proof.Machine

/-! ## Outcomes -/

/-- The next state of an outcome. -/
def nextOf : Host.Outcome State Fault Refusal → Option State
  | .next t => some t
  | .fault _ => none
  | .refused _ => none

/-- The fault of an outcome. -/
def faultOf : Host.Outcome State Fault Refusal → Option Fault
  | .next _ => none
  | .fault f => some f
  | .refused _ => none

/-- The refusal of an outcome. -/
def refusalOf : Host.Outcome State Fault Refusal → Option Refusal
  | .next _ => none
  | .fault _ => none
  | .refused r => some r

/-- A safe step completes. -/
def State.stepSafe (s : State) : Bool := (nextOf (step s)).isSome

/-! ## `Enabled(c)` (spec/70_reset_and_hazards.md R192, R195) -/

/-- The row of R192 for the MMX forms. -/
def State.enabledMmx (s : State) : Bool := s.config.hasMmx && !s.em && !s.ts && !s.x87Pending

/-- The row of R192 for the legacy SSE2 forms. -/
def State.enabledSse (s : State) : Bool := s.config.hasSse2 && !s.em && s.osfxsr && !s.ts

/-- What the row of R192 for the VEX forms asks beside the feature flags. -/
def State.vexReady (s : State) : Bool :=
  s.mode ≠ .real && s.mode ≠ .v8086 && s.osxsave && s.avxState && !s.ts

/-- The row of R192 for the VEX.128 forms. -/
def State.enabledVex128 (s : State) : Bool := s.config.hasAvx && s.vexReady

/-- The row of R192 for the VEX.256 forms. -/
def State.enabledVex256 (s : State) : Bool := s.config.hasAvx && s.config.hasAvx2 && s.vexReady

/-! ## Readable operands (spec/20_memory.md R58, spec/70_reset_and_hazards.md R192) -/

/-- The page of a linear address may be read (spec/60_exceptions.md R174). -/
def State.pageOk (s : State) (a : Word) : Bool :=
  match s.pageMap with
  | none => true
  | some pages =>
    match findPage pages (a.toNat / 4096) with
    | none => false
    | some e => !e.reserved && (!s.user || e.user)

/-- The address in memory of a linear address whose page may be read. -/
def State.physOf (s : State) (a : Word) : Nat :=
  match s.pageMap with
  | none => a.toNat
  | some pages =>
    match findPage pages (a.toNat / 4096) with
    | none => 0
    | some e => e.frame * 4096 + a.toNat % 4096

/-- None of the checks of R58 stops a read of `n` bytes, whatever `Translate` is: it answers addresses, all of
ordinary memory. -/
def State.operandOk (s : State) (c : OpClass) (g : Seg) (ea : Word) (n : Nat) : Bool :=
  !s.misaligned c g ea n && !s.alignTrap c g ea &&
    match s.translate g ea n with
    | .error _ => false
    | .ok as => as.all (ordinaryAt s.config.ordinary)

/-- The bytes of an operand that `Translate` answers addresses for, in address order. -/
def State.operandBytes (s : State) (g : Seg) (ea : Word) (n : Nat) : List Byte :=
  match s.translate g ea n with
  | .error _ => []
  | .ok as => as.map (byteAt s.mem)

/-- The second source of an MMX form can be read. -/
def State.mmSrcOk (s : State) (len : Nat) : RegMem 8 → Bool
  | .reg _ => true
  | .mem m => s.operandOk .mmx m.seg (s.effAddr len m) 4

/-- The second source of a form on vector registers can be read, `n` bytes if it is memory. -/
def State.vecSrcOk (s : State) (c : OpClass) (len n : Nat) : RegMem 16 → Bool
  | .reg _ => true
  | .mem m => s.operandOk c m.seg (s.effAddr len m) n

/-- The value of the second source of an MMX form: the register, or the 4 bytes of memory, little-endian
(spec/20_memory.md R41, R42). -/
def State.mmValue (s : State) (len : Nat) : RegMem 8 → BitVec 64
  | .reg r => s.readMm r
  | .mem m => BitVec.ofNat 64 (leNat (s.operandBytes m.seg (s.effAddr len m) 4))

/-- The value of the second source of a 128-bit form: all 16 bytes of a memory operand. -/
def State.xmmValue (s : State) (len : Nat) : RegMem 16 → BitVec 128
  | .reg r => s.readXmm r
  | .mem m => BitVec.ofNat 128 (leNat (s.operandBytes m.seg (s.effAddr len m) 16))

/-- The value of the second source of a 256-bit form: all 32 bytes of a memory operand. -/
def State.ymmValue (s : State) (len : Nat) : RegMem 16 → BitVec 256
  | .reg r => s.readYmm r
  | .mem m => BitVec.ofNat 256 (leNat (s.operandBytes m.seg (s.effAddr len m) 32))

/-! ## The `#UD` conditions (spec/60_exceptions.md R162 to R166) -/

/-- The CPUID flag the table names for the form is 1 (spec/30_encoding.md R61). -/
def shapeFeatured (s : State) : Shape → Bool
  | .mmx _ _ => s.config.hasMmx
  | .sse _ _ => s.config.hasSse2
  | .vex l _ _ _ => if l then s.config.hasAvx2 else s.config.hasAvx

/-- The control bits a class asks for (R163, R164, R166). -/
def shapeControlled (s : State) : Shape → Bool
  | .mmx _ _ => !s.em
  | .sse _ _ => !s.em && s.osfxsr
  | .vex _ _ _ _ => s.mode ≠ .real && s.mode ≠ .v8086 && s.osxsave && s.avxState

/-- Some `#UD` condition holds for the instruction. -/
def State.udFor (s : State) (i : Instr) : Bool :=
  i.enc.lock || !shapeFeatured s i.shape || !shapeControlled s i.shape

/-- The instruction is one of the MMX forms. -/
def isMmxForm (i : Instr) : Bool :=
  match i.shape with
  | .mmx _ _ => true
  | .sse _ _ => false
  | .vex _ _ _ _ => false

/-- The instruction is one of the VEX forms. -/
def isVexForm (i : Instr) : Bool :=
  match i.shape with
  | .mmx _ _ => false
  | .sse _ _ => false
  | .vex _ _ _ _ => true

/-- The memory operand of an instruction, with its class and size. -/
def memOperandOf (i : Instr) : Option (OpClass × MemOp × Nat) :=
  match i.shape with
  | .mmx _ (.mem m) => some (.mmx, m, 4)
  | .sse _ (.mem m) => some (.sse, m, 16)
  | .vex l _ _ (.mem m) => some (.vex, m, if l then 32 else 16)
  | _ => none

/-! ## What no form writes (spec/10_state.md R35) -/

/-- Everything no form of the group writes is the same in two states: configuration, general and segment
registers, `EFLAGS`, `MXCSR`, the control state, the program text, and every byte of memory. -/
def State.sameSystem (s t : State) : Prop :=
  t.config = s.config ∧ t.mxcsr = s.mxcsr ∧ t.gpr = s.gpr ∧ t.eflags = s.eflags ∧
  t.es = s.es ∧ t.cs = s.cs ∧ t.ss = s.ss ∧ t.ds = s.ds ∧ t.fs = s.fs ∧ t.gs = s.gs ∧ t.cpl = s.cpl ∧
  t.cr0 = s.cr0 ∧ t.cr2 = s.cr2 ∧ t.cr4 = s.cr4 ∧ t.xcr0 = s.xcr0 ∧ t.efer = s.efer ∧
  t.text = s.text ∧ ∀ a, byteAt t.mem a = byteAt s.mem a

/-- The x87 state is the same in two states. -/
def State.sameX87 (s t : State) : Prop :=
  t.x87Status = s.x87Status ∧ t.x87Tag = s.x87Tag ∧ t.x87High = s.x87High ∧ t.x87Dirty = s.x87Dirty

/-! ## Shapes of interleave results (spec/40_interleave_functions.md) -/

/-- From bit `lo` of the result on, `n` pairs of elements of `w` bits: element `i` of the first source from bit `src`
on, then element `i` of the second (R100, one lane). -/
def Interleaves {W : Nat} (w n lo src : Nat) (d s1 s2 : BitVec W) : Prop :=
  ∀ i < n, d.extractLsb' (lo + 2 * i * w) w = s1.extractLsb' (src + i * w) w ∧
    d.extractLsb' (lo + (2 * i + 1) * w) w = s2.extractLsb' (src + i * w) w

/-! ## The invariant -/

/-- The instruction pointer fits the width of the code (spec/10_state.md R27). -/
def State.pcFits (s : State) : Prop := truncTo s.codeSize s.rip = s.rip

/-- Memory and program text in canonical form, the instruction pointer within the width of the code, and, once an
MMX form has run, every x87 tag valid and `TOS` 0 (spec/10_state.md R27, R32, R33). -/
def State.Inv (s : State) : Prop :=
  Memory.wf s.mem = true ∧ textWf s.text = true ∧ s.pcFits ∧
    (s.x87Dirty = true → s.x87Tag = 0 ∧ s.x87Tos = 0)

end Sys2Proof.Machine
end

