-- ==== Sys2Proof/Certificates/Slice0/Obligations.lean ====
section
/-! DEFINITION. The statements for the provers, from the numbered rules of spec/. -/

open Sys2Proof Sys2Proof.Machine

/-- For all 64-bit sources, interleaveBytes64, interleaveWords64 and interleaveDwords64 place element i of the first
source at position 2i and element i of the second at 2i+1, for every i of bits 31:0, and each equals
InterleaveLow(8, 16, 32; mmx). Rules: R101; R102; R103. -/
def Obligations.Interleave64TablesHold : Prop :=
  ∀ s1 s2 : BitVec 64,
    Interleaves 8 4 0 0 (interleaveBytes64 s1 s2) s1 s2 ∧
    interleaveBytes64 s1 s2 = interleaveLow 8 64 s1 s2 ∧
    Interleaves 16 2 0 0 (interleaveWords64 s1 s2) s1 s2 ∧
    interleaveWords64 s1 s2 = interleaveLow 16 64 s1 s2 ∧
    Interleaves 32 1 0 0 (interleaveDwords64 s1 s2) s1 s2 ∧
    interleaveDwords64 s1 s2 = interleaveLow 32 64 s1 s2

/-- For all 128-bit sources, the byte, word, doubleword and quadword functions place element i of the low half of
the first source at position 2i and of the second at 2i+1 (with the third line corrected to SRC1[15:8]), and
each equals InterleaveLow(w, 1). Rules: R104; R105; R106; R107. -/
def Obligations.Interleave128TablesHold : Prop :=
  ∀ s1 s2 : BitVec 128,
    Interleaves 8 8 0 0 (interleaveBytes s1 s2) s1 s2 ∧
    interleaveBytes s1 s2 = interleaveLow 8 128 s1 s2 ∧
    Interleaves 16 4 0 0 (interleaveWords s1 s2) s1 s2 ∧
    interleaveWords s1 s2 = interleaveLow 16 128 s1 s2 ∧
    Interleaves 32 2 0 0 (interleaveDwords s1 s2) s1 s2 ∧
    interleaveDwords s1 s2 = interleaveLow 32 128 s1 s2 ∧
    Interleaves 64 1 0 0 (interleaveQwords s1 s2) s1 s2 ∧
    interleaveQwords s1 s2 = interleaveLow 64 128 s1 s2

/-- For all 256-bit sources, the byte, word, doubleword and quadword functions interleave the low halves of the two
128-bit lanes, each into its own lane, and each equals InterleaveLow(w, 2). Rules: R108; R109; R110; R111. -/
def Obligations.Interleave256TablesHold : Prop :=
  ∀ s1 s2 : BitVec 256,
    Interleaves 8 8 0 0 (interleaveBytes256 s1 s2) s1 s2 ∧
    Interleaves 8 8 128 128 (interleaveBytes256 s1 s2) s1 s2 ∧
    interleaveBytes256 s1 s2 = interleaveLow 8 128 s1 s2 ∧
    Interleaves 16 4 0 0 (interleaveWords256 s1 s2) s1 s2 ∧
    Interleaves 16 4 128 128 (interleaveWords256 s1 s2) s1 s2 ∧
    interleaveWords256 s1 s2 = interleaveLow 16 128 s1 s2 ∧
    Interleaves 32 2 0 0 (interleaveDwords256 s1 s2) s1 s2 ∧
    Interleaves 32 2 128 128 (interleaveDwords256 s1 s2) s1 s2 ∧
    interleaveDwords256 s1 s2 = interleaveLow 32 128 s1 s2 ∧
    Interleaves 64 1 0 0 (interleaveQwords256 s1 s2) s1 s2 ∧
    Interleaves 64 1 128 128 (interleaveQwords256 s1 s2) s1 s2 ∧
    interleaveQwords256 s1 s2 = interleaveLow 64 128 s1 s2

/-- For every element width w dividing half a lane, every number of lanes and all sources of that many lanes,
InterleaveLow puts element i of the low half of lane l of the first source at even position 2i of lane l and
that of the second source at odd position 2i+1, for every i below lanebits/2/w; so for the widths and shapes
R100 lists. Rules: R100. -/
def Obligations.InterleaveLawPlacesElements : Prop :=
  ∀ (w n lanes : Nat) (s1 s2 : BitVec (lanes * (2 * (n * w)))), 0 < w →
    ∀ l < lanes, Interleaves w n (2 * (n * w) * l) (2 * (n * w) * l) (interleaveLow w (2 * (n * w)) s1 s2) s1 s2

/-- For all 256-bit sources and each of the four element widths, both 128-bit halves of the 256-bit result are the
128-bit function of the same halves of the sources; so no element crosses lanes. Rules: R112. -/
def Obligations.LanesAreIndependent : Prop :=
  ∀ s1 s2 : BitVec 256,
    (interleaveBytes256 s1 s2).extractLsb' 0 128 = interleaveBytes (s1.extractLsb' 0 128) (s2.extractLsb' 0 128) ∧
    (interleaveBytes256 s1 s2).extractLsb' 128 128 = interleaveBytes (s1.extractLsb' 128 128) (s2.extractLsb' 128 128) ∧
    (interleaveWords256 s1 s2).extractLsb' 0 128 = interleaveWords (s1.extractLsb' 0 128) (s2.extractLsb' 0 128) ∧
    (interleaveWords256 s1 s2).extractLsb' 128 128 = interleaveWords (s1.extractLsb' 128 128) (s2.extractLsb' 128 128) ∧
    (interleaveDwords256 s1 s2).extractLsb' 0 128 = interleaveDwords (s1.extractLsb' 0 128) (s2.extractLsb' 0 128) ∧
    (interleaveDwords256 s1 s2).extractLsb' 128 128 = interleaveDwords (s1.extractLsb' 128 128) (s2.extractLsb' 128 128) ∧
    (interleaveQwords256 s1 s2).extractLsb' 0 128 = interleaveQwords (s1.extractLsb' 0 128) (s2.extractLsb' 0 128) ∧
    (interleaveQwords256 s1 s2).extractLsb' 128 128 = interleaveQwords (s1.extractLsb' 128 128) (s2.extractLsb' 128 128)

/-- For each of the eleven functions: if every bit of the second source that it reads is 0, the result is each low-
half element of the first source (of each lane) zero-extended to twice its width, in place order. Rules: R113. -/
def Obligations.ZeroSourceZeroExtends : Prop :=
  (∀ s1 s2 : BitVec 64, s2.extractLsb' 0 32 = 0 →
      (∀ i < 4, (interleaveBytes64 s1 s2).extractLsb' (0 + 16 * i) 16 = (s1.extractLsb' (0 + 8 * i) 8).setWidth 16)) ∧
  (∀ s1 s2 : BitVec 64, s2.extractLsb' 0 32 = 0 →
      (∀ i < 2, (interleaveWords64 s1 s2).extractLsb' (0 + 32 * i) 32 = (s1.extractLsb' (0 + 16 * i) 16).setWidth 32)) ∧
  (∀ s1 s2 : BitVec 64, s2.extractLsb' 0 32 = 0 →
      (∀ i < 1, (interleaveDwords64 s1 s2).extractLsb' (0 + 64 * i) 64 = (s1.extractLsb' (0 + 32 * i) 32).setWidth 64)) ∧
  (∀ s1 s2 : BitVec 128, s2.extractLsb' 0 64 = 0 →
      (∀ i < 8, (interleaveBytes s1 s2).extractLsb' (0 + 16 * i) 16 = (s1.extractLsb' (0 + 8 * i) 8).setWidth 16)) ∧
  (∀ s1 s2 : BitVec 128, s2.extractLsb' 0 64 = 0 →
      (∀ i < 4, (interleaveWords s1 s2).extractLsb' (0 + 32 * i) 32 = (s1.extractLsb' (0 + 16 * i) 16).setWidth 32)) ∧
  (∀ s1 s2 : BitVec 128, s2.extractLsb' 0 64 = 0 →
      (∀ i < 2, (interleaveDwords s1 s2).extractLsb' (0 + 64 * i) 64 = (s1.extractLsb' (0 + 32 * i) 32).setWidth 64)) ∧
  (∀ s1 s2 : BitVec 128, s2.extractLsb' 0 64 = 0 →
      (∀ i < 1, (interleaveQwords s1 s2).extractLsb' (0 + 128 * i) 128 = (s1.extractLsb' (0 + 64 * i) 64).setWidth 128)) ∧
  (∀ s1 s2 : BitVec 256, s2.extractLsb' 0 64 = 0 → s2.extractLsb' 128 64 = 0 →
      (∀ i < 8, (interleaveBytes256 s1 s2).extractLsb' (0 + 16 * i) 16 = (s1.extractLsb' (0 + 8 * i) 8).setWidth 16) ∧
      (∀ i < 8, (interleaveBytes256 s1 s2).extractLsb' (128 + 16 * i) 16 = (s1.extractLsb' (128 + 8 * i) 8).setWidth 16)) ∧
  (∀ s1 s2 : BitVec 256, s2.extractLsb' 0 64 = 0 → s2.extractLsb' 128 64 = 0 →
      (∀ i < 4, (interleaveWords256 s1 s2).extractLsb' (0 + 32 * i) 32 = (s1.extractLsb' (0 + 16 * i) 16).setWidth 32) ∧
      (∀ i < 4, (interleaveWords256 s1 s2).extractLsb' (128 + 32 * i) 32 = (s1.extractLsb' (128 + 16 * i) 16).setWidth 32)) ∧
  (∀ s1 s2 : BitVec 256, s2.extractLsb' 0 64 = 0 → s2.extractLsb' 128 64 = 0 →
      (∀ i < 2, (interleaveDwords256 s1 s2).extractLsb' (0 + 64 * i) 64 = (s1.extractLsb' (0 + 32 * i) 32).setWidth 64) ∧
      (∀ i < 2, (interleaveDwords256 s1 s2).extractLsb' (128 + 64 * i) 64 = (s1.extractLsb' (128 + 32 * i) 32).setWidth 64)) ∧
  (∀ s1 s2 : BitVec 256, s2.extractLsb' 0 64 = 0 → s2.extractLsb' 128 64 = 0 →
      (∀ i < 1, (interleaveQwords256 s1 s2).extractLsb' (0 + 128 * i) 128 = (s1.extractLsb' (0 + 64 * i) 64).setWidth 128) ∧
      (∀ i < 1, (interleaveQwords256 s1 s2).extractLsb' (128 + 128 * i) 128 = (s1.extractLsb' (128 + 64 * i) 64).setWidth 128))

/-- For each of the eleven functions: with both sources equal, each low-half element (of each lane) appears twice in
a row in the result. Rules: R114. -/
def Obligations.SameSourceDoublesElements : Prop :=
  (∀ s : BitVec 64, ∀ i < 4, (interleaveBytes64 s s).extractLsb' (0 + 16 * i) 16 =
      s.extractLsb' (0 + 8 * i) 8 ++ s.extractLsb' (0 + 8 * i) 8) ∧
  (∀ s : BitVec 64, ∀ i < 2, (interleaveWords64 s s).extractLsb' (0 + 32 * i) 32 =
      s.extractLsb' (0 + 16 * i) 16 ++ s.extractLsb' (0 + 16 * i) 16) ∧
  (∀ s : BitVec 64, ∀ i < 1, (interleaveDwords64 s s).extractLsb' (0 + 64 * i) 64 =
      s.extractLsb' (0 + 32 * i) 32 ++ s.extractLsb' (0 + 32 * i) 32) ∧
  (∀ s : BitVec 128, ∀ i < 8, (interleaveBytes s s).extractLsb' (0 + 16 * i) 16 =
      s.extractLsb' (0 + 8 * i) 8 ++ s.extractLsb' (0 + 8 * i) 8) ∧
  (∀ s : BitVec 128, ∀ i < 4, (interleaveWords s s).extractLsb' (0 + 32 * i) 32 =
      s.extractLsb' (0 + 16 * i) 16 ++ s.extractLsb' (0 + 16 * i) 16) ∧
  (∀ s : BitVec 128, ∀ i < 2, (interleaveDwords s s).extractLsb' (0 + 64 * i) 64 =
      s.extractLsb' (0 + 32 * i) 32 ++ s.extractLsb' (0 + 32 * i) 32) ∧
  (∀ s : BitVec 128, ∀ i < 1, (interleaveQwords s s).extractLsb' (0 + 128 * i) 128 =
      s.extractLsb' (0 + 64 * i) 64 ++ s.extractLsb' (0 + 64 * i) 64) ∧
  (∀ s : BitVec 256, ∀ i < 8, (interleaveBytes256 s s).extractLsb' (0 + 16 * i) 16 =
      s.extractLsb' (0 + 8 * i) 8 ++ s.extractLsb' (0 + 8 * i) 8 ∧
      (interleaveBytes256 s s).extractLsb' (128 + 16 * i) 16 =
      s.extractLsb' (128 + 8 * i) 8 ++ s.extractLsb' (128 + 8 * i) 8) ∧
  (∀ s : BitVec 256, ∀ i < 4, (interleaveWords256 s s).extractLsb' (0 + 32 * i) 32 =
      s.extractLsb' (0 + 16 * i) 16 ++ s.extractLsb' (0 + 16 * i) 16 ∧
      (interleaveWords256 s s).extractLsb' (128 + 32 * i) 32 =
      s.extractLsb' (128 + 16 * i) 16 ++ s.extractLsb' (128 + 16 * i) 16) ∧
  (∀ s : BitVec 256, ∀ i < 2, (interleaveDwords256 s s).extractLsb' (0 + 64 * i) 64 =
      s.extractLsb' (0 + 32 * i) 32 ++ s.extractLsb' (0 + 32 * i) 32 ∧
      (interleaveDwords256 s s).extractLsb' (128 + 64 * i) 64 =
      s.extractLsb' (128 + 32 * i) 32 ++ s.extractLsb' (128 + 32 * i) 32) ∧
  (∀ s : BitVec 256, ∀ i < 1, (interleaveQwords256 s s).extractLsb' (0 + 128 * i) 128 =
      s.extractLsb' (0 + 64 * i) 64 ++ s.extractLsb' (0 + 64 * i) 64 ∧
      (interleaveQwords256 s s).extractLsb' (128 + 128 * i) 128 =
      s.extractLsb' (128 + 64 * i) 64 ++ s.extractLsb' (128 + 64 * i) 64)

/-- For each of the eleven functions, sources that agree on the low half of each lane give the same result: bits
63:32 for the 64-bit functions, 127:64 for the 128-bit functions, 127:64 and 255:192 for the 256-bit functions
never matter. Rules: R115. -/
def Obligations.HighHalvesAreIgnored : Prop :=
  (∀ s1 s2 u1 u2 : BitVec 64, s1.extractLsb' 0 32 = u1.extractLsb' 0 32 →
    s2.extractLsb' 0 32 = u2.extractLsb' 0 32 →
    interleaveBytes64 s1 s2 = interleaveBytes64 u1 u2 ∧ interleaveWords64 s1 s2 = interleaveWords64 u1 u2 ∧ interleaveDwords64 s1 s2 = interleaveDwords64 u1 u2) ∧
  (∀ s1 s2 u1 u2 : BitVec 128, s1.extractLsb' 0 64 = u1.extractLsb' 0 64 →
    s2.extractLsb' 0 64 = u2.extractLsb' 0 64 →
    interleaveBytes s1 s2 = interleaveBytes u1 u2 ∧ interleaveWords s1 s2 = interleaveWords u1 u2 ∧ interleaveDwords s1 s2 = interleaveDwords u1 u2 ∧ interleaveQwords s1 s2 = interleaveQwords u1 u2) ∧
  (∀ s1 s2 u1 u2 : BitVec 256, s1.extractLsb' 0 64 = u1.extractLsb' 0 64 → s1.extractLsb' 128 64 = u1.extractLsb' 128 64 →
    s2.extractLsb' 0 64 = u2.extractLsb' 0 64 → s2.extractLsb' 128 64 = u2.extractLsb' 128 64 →
    interleaveBytes256 s1 s2 = interleaveBytes256 u1 u2 ∧ interleaveWords256 s1 s2 = interleaveWords256 u1 u2 ∧ interleaveDwords256 s1 s2 = interleaveDwords256 u1 u2 ∧ interleaveQwords256 s1 s2 = interleaveQwords256 u1 u2)

/-- For each of the eleven functions, equal results come only from sources that agree on the low half of each lane:
the low halves of both sources can be recovered from the result. Rules: 40_interleave_functions.md R116 (each
function is injective on the bits it reads). -/
def Obligations.LowHalvesAreRecoverable : Prop :=
  (∀ s1 s2 u1 u2 : BitVec 64, interleaveBytes64 s1 s2 = interleaveBytes64 u1 u2 →
    s1.extractLsb' 0 32 = u1.extractLsb' 0 32 ∧ s2.extractLsb' 0 32 = u2.extractLsb' 0 32) ∧
  (∀ s1 s2 u1 u2 : BitVec 64, interleaveWords64 s1 s2 = interleaveWords64 u1 u2 →
    s1.extractLsb' 0 32 = u1.extractLsb' 0 32 ∧ s2.extractLsb' 0 32 = u2.extractLsb' 0 32) ∧
  (∀ s1 s2 u1 u2 : BitVec 64, interleaveDwords64 s1 s2 = interleaveDwords64 u1 u2 →
    s1.extractLsb' 0 32 = u1.extractLsb' 0 32 ∧ s2.extractLsb' 0 32 = u2.extractLsb' 0 32) ∧
  (∀ s1 s2 u1 u2 : BitVec 128, interleaveBytes s1 s2 = interleaveBytes u1 u2 →
    s1.extractLsb' 0 64 = u1.extractLsb' 0 64 ∧ s2.extractLsb' 0 64 = u2.extractLsb' 0 64) ∧
  (∀ s1 s2 u1 u2 : BitVec 128, interleaveWords s1 s2 = interleaveWords u1 u2 →
    s1.extractLsb' 0 64 = u1.extractLsb' 0 64 ∧ s2.extractLsb' 0 64 = u2.extractLsb' 0 64) ∧
  (∀ s1 s2 u1 u2 : BitVec 128, interleaveDwords s1 s2 = interleaveDwords u1 u2 →
    s1.extractLsb' 0 64 = u1.extractLsb' 0 64 ∧ s2.extractLsb' 0 64 = u2.extractLsb' 0 64) ∧
  (∀ s1 s2 u1 u2 : BitVec 128, interleaveQwords s1 s2 = interleaveQwords u1 u2 →
    s1.extractLsb' 0 64 = u1.extractLsb' 0 64 ∧ s2.extractLsb' 0 64 = u2.extractLsb' 0 64) ∧
  (∀ s1 s2 u1 u2 : BitVec 256, interleaveBytes256 s1 s2 = interleaveBytes256 u1 u2 →
    s1.extractLsb' 0 64 = u1.extractLsb' 0 64 ∧ s1.extractLsb' 128 64 = u1.extractLsb' 128 64 ∧ s2.extractLsb' 0 64 = u2.extractLsb' 0 64 ∧ s2.extractLsb' 128 64 = u2.extractLsb' 128 64) ∧
  (∀ s1 s2 u1 u2 : BitVec 256, interleaveWords256 s1 s2 = interleaveWords256 u1 u2 →
    s1.extractLsb' 0 64 = u1.extractLsb' 0 64 ∧ s1.extractLsb' 128 64 = u1.extractLsb' 128 64 ∧ s2.extractLsb' 0 64 = u2.extractLsb' 0 64 ∧ s2.extractLsb' 128 64 = u2.extractLsb' 128 64) ∧
  (∀ s1 s2 u1 u2 : BitVec 256, interleaveDwords256 s1 s2 = interleaveDwords256 u1 u2 →
    s1.extractLsb' 0 64 = u1.extractLsb' 0 64 ∧ s1.extractLsb' 128 64 = u1.extractLsb' 128 64 ∧ s2.extractLsb' 0 64 = u2.extractLsb' 0 64 ∧ s2.extractLsb' 128 64 = u2.extractLsb' 128 64) ∧
  (∀ s1 s2 u1 u2 : BitVec 256, interleaveQwords256 s1 s2 = interleaveQwords256 u1 u2 →
    s1.extractLsb' 0 64 = u1.extractLsb' 0 64 ∧ s1.extractLsb' 128 64 = u1.extractLsb' 128 64 ∧ s2.extractLsb' 0 64 = u2.extractLsb' 0 64 ∧ s2.extractLsb' 128 64 = u2.extractLsb' 128 64)

/-- In every state where the MMX forms are enabled, for every destination and every register or readable memory
source, without LOCK, PUNPCKLBW answers a next state: element i of the low half of MM[d] and of the source stand
at positions 2i and 2i+1 of MM[d], the x87 side effects are TOS 0, tags valid, bits 79:64 of the aliased
register ones, x87_dirty true, the pc advances by the length, and nothing else changes. Rules: 41_mmx_forms.md
R120, R121; 10_state.md R27, R32, R35. -/
def Obligations.PunpcklbwMmResult : Prop :=
  ∀ (e : Enc) (d : Fin 8) (src : RegMem 8) (s : State),
    e.lock = false → s.enabledMmx = true → s.mmSrcOk e.len src = true →
    ∃ t, exec (.punpcklbwMm e d src) s = .next t ∧
      Interleaves 8 4 0 0 (t.readMm d) (s.readMm d) (s.mmValue e.len src) ∧
      t = { s with
        mm := s.mm.set d (t.readMm d)
        x87Status := s.x87Status &&& 0xC7FF
        x87Tag := 0
        x87High := s.x87High.set d 0xFFFF
        x87Dirty := true
        rip := truncTo s.codeSize (s.rip + BitVec.ofNat 64 e.len) }

/-- In every state where the MMX forms are enabled, for every destination and every register or readable memory
source, without LOCK, PUNPCKLWD answers a next state: element i of the low half of MM[d] and of the source stand
at positions 2i and 2i+1 of MM[d], the x87 side effects are TOS 0, tags valid, bits 79:64 of the aliased
register ones, x87_dirty true, the pc advances by the length, and nothing else changes. Rules: 41_mmx_forms.md
R120, R122; 10_state.md R27, R32, R35. -/
def Obligations.PunpcklwdMmResult : Prop :=
  ∀ (e : Enc) (d : Fin 8) (src : RegMem 8) (s : State),
    e.lock = false → s.enabledMmx = true → s.mmSrcOk e.len src = true →
    ∃ t, exec (.punpcklwdMm e d src) s = .next t ∧
      Interleaves 16 2 0 0 (t.readMm d) (s.readMm d) (s.mmValue e.len src) ∧
      t = { s with
        mm := s.mm.set d (t.readMm d)
        x87Status := s.x87Status &&& 0xC7FF
        x87Tag := 0
        x87High := s.x87High.set d 0xFFFF
        x87Dirty := true
        rip := truncTo s.codeSize (s.rip + BitVec.ofNat 64 e.len) }

/-- In every state where the MMX forms are enabled, for every destination and every register or readable memory
source, without LOCK, PUNPCKLDQ answers a next state: element i of the low half of MM[d] and of the source stand
at positions 2i and 2i+1 of MM[d], the x87 side effects are TOS 0, tags valid, bits 79:64 of the aliased
register ones, x87_dirty true, the pc advances by the length, and nothing else changes. Rules: 41_mmx_forms.md
R120, R123; 10_state.md R27, R32, R35. -/
def Obligations.PunpckldqMmResult : Prop :=
  ∀ (e : Enc) (d : Fin 8) (src : RegMem 8) (s : State),
    e.lock = false → s.enabledMmx = true → s.mmSrcOk e.len src = true →
    ∃ t, exec (.punpckldqMm e d src) s = .next t ∧
      Interleaves 32 1 0 0 (t.readMm d) (s.readMm d) (s.mmValue e.len src) ∧
      t = { s with
        mm := s.mm.set d (t.readMm d)
        x87Status := s.x87Status &&& 0xC7FF
        x87Tag := 0
        x87High := s.x87High.set d 0xFFFF
        x87Dirty := true
        rip := truncTo s.codeSize (s.rip + BitVec.ofNat 64 e.len) }

/-- In every state where the legacy SSE2 forms are enabled, for every destination and every register or readable
memory source (16-byte aligned among the conditions), without LOCK, PUNPCKLBW answers a next state: element i of
the low half of XMM[d] and of the source stand at positions 2i and 2i+1 of XMM[d], bits 255:128 of YMM[d] are
kept, the pc advances by the length, and nothing else changes. Rules: 42_sse_forms.md R130, R131; 10_state.md
R23, R27, R35. -/
def Obligations.PunpcklbwXmmResult : Prop :=
  ∀ (e : Enc) (d : Fin 16) (src : RegMem 16) (s : State),
    e.lock = false → s.enabledSse = true → s.vecSrcOk .sse e.len 16 src = true →
    ∃ t, exec (.punpcklbwXmm e d src) s = .next t ∧
      Interleaves 8 8 0 0 (t.readXmm d) (s.readXmm d) (s.xmmValue e.len src) ∧
      t = { s with
        ymm := s.ymm.set d (s.readUpper d ++ t.readXmm d)
        rip := truncTo s.codeSize (s.rip + BitVec.ofNat 64 e.len) }

/-- In every state where the legacy SSE2 forms are enabled, for every destination and every register or readable
memory source (16-byte aligned among the conditions), without LOCK, PUNPCKLWD answers a next state: element i of
the low half of XMM[d] and of the source stand at positions 2i and 2i+1 of XMM[d], bits 255:128 of YMM[d] are
kept, the pc advances by the length, and nothing else changes. Rules: 42_sse_forms.md R130, R132; 10_state.md
R23, R27, R35. -/
def Obligations.PunpcklwdXmmResult : Prop :=
  ∀ (e : Enc) (d : Fin 16) (src : RegMem 16) (s : State),
    e.lock = false → s.enabledSse = true → s.vecSrcOk .sse e.len 16 src = true →
    ∃ t, exec (.punpcklwdXmm e d src) s = .next t ∧
      Interleaves 16 4 0 0 (t.readXmm d) (s.readXmm d) (s.xmmValue e.len src) ∧
      t = { s with
        ymm := s.ymm.set d (s.readUpper d ++ t.readXmm d)
        rip := truncTo s.codeSize (s.rip + BitVec.ofNat 64 e.len) }

/-- In every state where the legacy SSE2 forms are enabled, for every destination and every register or readable
memory source (16-byte aligned among the conditions), without LOCK, PUNPCKLDQ answers a next state: element i of
the low half of XMM[d] and of the source stand at positions 2i and 2i+1 of XMM[d], bits 255:128 of YMM[d] are
kept, the pc advances by the length, and nothing else changes. Rules: 42_sse_forms.md R130, R133; 10_state.md
R23, R27, R35. -/
def Obligations.PunpckldqXmmResult : Prop :=
  ∀ (e : Enc) (d : Fin 16) (src : RegMem 16) (s : State),
    e.lock = false → s.enabledSse = true → s.vecSrcOk .sse e.len 16 src = true →
    ∃ t, exec (.punpckldqXmm e d src) s = .next t ∧
      Interleaves 32 2 0 0 (t.readXmm d) (s.readXmm d) (s.xmmValue e.len src) ∧
      t = { s with
        ymm := s.ymm.set d (s.readUpper d ++ t.readXmm d)
        rip := truncTo s.codeSize (s.rip + BitVec.ofNat 64 e.len) }

/-- In every state where the legacy SSE2 forms are enabled, for every destination and every register or readable
memory source (16-byte aligned among the conditions), without LOCK, PUNPCKLQDQ answers a next state: element i
of the low half of XMM[d] and of the source stand at positions 2i and 2i+1 of XMM[d], bits 255:128 of YMM[d] are
kept, the pc advances by the length, and nothing else changes. Rules: 42_sse_forms.md R130, R134; 10_state.md
R23, R27, R35. -/
def Obligations.PunpcklqdqXmmResult : Prop :=
  ∀ (e : Enc) (d : Fin 16) (src : RegMem 16) (s : State),
    e.lock = false → s.enabledSse = true → s.vecSrcOk .sse e.len 16 src = true →
    ∃ t, exec (.punpcklqdqXmm e d src) s = .next t ∧
      Interleaves 64 1 0 0 (t.readXmm d) (s.readXmm d) (s.xmmValue e.len src) ∧
      t = { s with
        ymm := s.ymm.set d (s.readUpper d ++ t.readXmm d)
        rip := truncTo s.codeSize (s.rip + BitVec.ofNat 64 e.len) }

/-- In every state where the VEX.128 forms are enabled, for all registers and every register or readable memory
source, without LOCK, VPUNPCKLBW answers a next state: element i of the low half of XMM[a] and of the source
stand at positions 2i and 2i+1 of YMM[d], bits 255:128 of YMM[d] are 0, the pc advances by the length, and
nothing else changes. Rules: 43_vex128_forms.md R140, R141; 10_state.md R23, R27, R35. -/
def Obligations.VpunpcklbwXmmResult : Prop :=
  ∀ (e : Enc) (d a : Fin 16) (src : RegMem 16) (s : State),
    e.lock = false → s.enabledVex128 = true → s.vecSrcOk .vex e.len 16 src = true →
    ∃ t, exec (.vpunpcklbwXmm e d a src) s = .next t ∧
      Interleaves 8 8 0 0 (t.readXmm d) (s.readXmm a) (s.xmmValue e.len src) ∧
      t = { s with
        ymm := s.ymm.set d (0#128 ++ t.readXmm d)
        rip := truncTo s.codeSize (s.rip + BitVec.ofNat 64 e.len) }

/-- In every state where the VEX.128 forms are enabled, for all registers and every register or readable memory
source, without LOCK, VPUNPCKLWD answers a next state: element i of the low half of XMM[a] and of the source
stand at positions 2i and 2i+1 of YMM[d], bits 255:128 of YMM[d] are 0, the pc advances by the length, and
nothing else changes. Rules: 43_vex128_forms.md R140, R142; 10_state.md R23, R27, R35. -/
def Obligations.VpunpcklwdXmmResult : Prop :=
  ∀ (e : Enc) (d a : Fin 16) (src : RegMem 16) (s : State),
    e.lock = false → s.enabledVex128 = true → s.vecSrcOk .vex e.len 16 src = true →
    ∃ t, exec (.vpunpcklwdXmm e d a src) s = .next t ∧
      Interleaves 16 4 0 0 (t.readXmm d) (s.readXmm a) (s.xmmValue e.len src) ∧
      t = { s with
        ymm := s.ymm.set d (0#128 ++ t.readXmm d)
        rip := truncTo s.codeSize (s.rip + BitVec.ofNat 64 e.len) }

/-- In every state where the VEX.128 forms are enabled, for all registers and every register or readable memory
source, without LOCK, VPUNPCKLDQ answers a next state: element i of the low half of XMM[a] and of the source
stand at positions 2i and 2i+1 of YMM[d], bits 255:128 of YMM[d] are 0, the pc advances by the length, and
nothing else changes. Rules: 43_vex128_forms.md R140, R143; 10_state.md R23, R27, R35. -/
def Obligations.VpunpckldqXmmResult : Prop :=
  ∀ (e : Enc) (d a : Fin 16) (src : RegMem 16) (s : State),
    e.lock = false → s.enabledVex128 = true → s.vecSrcOk .vex e.len 16 src = true →
    ∃ t, exec (.vpunpckldqXmm e d a src) s = .next t ∧
      Interleaves 32 2 0 0 (t.readXmm d) (s.readXmm a) (s.xmmValue e.len src) ∧
      t = { s with
        ymm := s.ymm.set d (0#128 ++ t.readXmm d)
        rip := truncTo s.codeSize (s.rip + BitVec.ofNat 64 e.len) }

/-- In every state where the VEX.128 forms are enabled, for all registers and every register or readable memory
source, without LOCK, VPUNPCKLQDQ answers a next state: element i of the low half of XMM[a] and of the source
stand at positions 2i and 2i+1 of YMM[d], bits 255:128 of YMM[d] are 0, the pc advances by the length, and
nothing else changes. Rules: 43_vex128_forms.md R140, R144; 10_state.md R23, R27, R35. -/
def Obligations.VpunpcklqdqXmmResult : Prop :=
  ∀ (e : Enc) (d a : Fin 16) (src : RegMem 16) (s : State),
    e.lock = false → s.enabledVex128 = true → s.vecSrcOk .vex e.len 16 src = true →
    ∃ t, exec (.vpunpcklqdqXmm e d a src) s = .next t ∧
      Interleaves 64 1 0 0 (t.readXmm d) (s.readXmm a) (s.xmmValue e.len src) ∧
      t = { s with
        ymm := s.ymm.set d (0#128 ++ t.readXmm d)
        rip := truncTo s.codeSize (s.rip + BitVec.ofNat 64 e.len) }

/-- In every state with AVX2 where the VEX forms are ready, for all registers and every register or readable memory
source, without LOCK, VPUNPCKLBW answers a next state: in each 128-bit lane, element i of the low half of YMM[a]
and of the source stand at positions 2i and 2i+1 of YMM[d], the pc advances by the length, and nothing else
changes. Rules: 44_vex256_forms.md R150, R151; 10_state.md R23, R27, R35. -/
def Obligations.VpunpcklbwYmmResult : Prop :=
  ∀ (e : Enc) (d a : Fin 16) (src : RegMem 16) (s : State),
    e.lock = false → s.config.hasAvx2 = true → s.vexReady = true → s.vecSrcOk .vex e.len 32 src = true →
    ∃ t, exec (.vpunpcklbwYmm e d a src) s = .next t ∧
      Interleaves 8 8 0 0 (t.readYmm d) (s.readYmm a) (s.ymmValue e.len src) ∧
      Interleaves 8 8 128 128 (t.readYmm d) (s.readYmm a) (s.ymmValue e.len src) ∧
      t = { s with
        ymm := s.ymm.set d (t.readYmm d)
        rip := truncTo s.codeSize (s.rip + BitVec.ofNat 64 e.len) }

/-- In every state with AVX2 where the VEX forms are ready, for all registers and every register or readable memory
source, without LOCK, VPUNPCKLWD answers a next state: in each 128-bit lane, element i of the low half of YMM[a]
and of the source stand at positions 2i and 2i+1 of YMM[d], the pc advances by the length, and nothing else
changes. Rules: 44_vex256_forms.md R150, R152; 10_state.md R23, R27, R35. -/
def Obligations.VpunpcklwdYmmResult : Prop :=
  ∀ (e : Enc) (d a : Fin 16) (src : RegMem 16) (s : State),
    e.lock = false → s.config.hasAvx2 = true → s.vexReady = true → s.vecSrcOk .vex e.len 32 src = true →
    ∃ t, exec (.vpunpcklwdYmm e d a src) s = .next t ∧
      Interleaves 16 4 0 0 (t.readYmm d) (s.readYmm a) (s.ymmValue e.len src) ∧
      Interleaves 16 4 128 128 (t.readYmm d) (s.readYmm a) (s.ymmValue e.len src) ∧
      t = { s with
        ymm := s.ymm.set d (t.readYmm d)
        rip := truncTo s.codeSize (s.rip + BitVec.ofNat 64 e.len) }

/-- In every state with AVX2 where the VEX forms are ready, for all registers and every register or readable memory
source, without LOCK, VPUNPCKLDQ answers a next state: in each 128-bit lane, element i of the low half of YMM[a]
and of the source stand at positions 2i and 2i+1 of YMM[d], the pc advances by the length, and nothing else
changes. Rules: 44_vex256_forms.md R150, R153; 10_state.md R23, R27, R35. -/
def Obligations.VpunpckldqYmmResult : Prop :=
  ∀ (e : Enc) (d a : Fin 16) (src : RegMem 16) (s : State),
    e.lock = false → s.config.hasAvx2 = true → s.vexReady = true → s.vecSrcOk .vex e.len 32 src = true →
    ∃ t, exec (.vpunpckldqYmm e d a src) s = .next t ∧
      Interleaves 32 2 0 0 (t.readYmm d) (s.readYmm a) (s.ymmValue e.len src) ∧
      Interleaves 32 2 128 128 (t.readYmm d) (s.readYmm a) (s.ymmValue e.len src) ∧
      t = { s with
        ymm := s.ymm.set d (t.readYmm d)
        rip := truncTo s.codeSize (s.rip + BitVec.ofNat 64 e.len) }

/-- In every state with AVX2 where the VEX forms are ready, for all registers and every register or readable memory
source, without LOCK, VPUNPCKLQDQ answers a next state: in each 128-bit lane, element i of the low half of
YMM[a] and of the source stand at positions 2i and 2i+1 of YMM[d], the pc advances by the length, and nothing
else changes. Rules: 44_vex256_forms.md R150, R154; 10_state.md R23, R27, R35. -/
def Obligations.VpunpcklqdqYmmResult : Prop :=
  ∀ (e : Enc) (d a : Fin 16) (src : RegMem 16) (s : State),
    e.lock = false → s.config.hasAvx2 = true → s.vexReady = true → s.vecSrcOk .vex e.len 32 src = true →
    ∃ t, exec (.vpunpcklqdqYmm e d a src) s = .next t ∧
      Interleaves 64 1 0 0 (t.readYmm d) (s.readYmm a) (s.ymmValue e.len src) ∧
      Interleaves 64 1 128 128 (t.readYmm d) (s.readYmm a) (s.ymmValue e.len src) ∧
      t = { s with
        ymm := s.ymm.set d (t.readYmm d)
        rip := truncTo s.codeSize (s.rip + BitVec.ofNat 64 e.len) }

/-- If one of the three MMX forms completes: every other MM register, all YMM registers, every general, segment,
flag, control and configuration field, the program text and every byte of memory are unchanged; of the x87
status word only TOS changes, to 0; the tag word is all valid; bits 79:64 of the aliased register are ones and
of the others unchanged; x87_dirty is true. Rules: 10_state.md R24, R32, R35 (write set of the MMX forms). -/
def Obligations.MmxFormsFrame : Prop :=
  ∀ (i : Instr) (d : Fin 8) (src : RegMem 8) (s t : State), i.shape = .mmx d src → exec i s = .next t →
    s.sameSystem t ∧ t.ymm = s.ymm ∧ (∀ j, j ≠ d → t.readMm j = s.readMm j) ∧
    t.x87Tos = 0 ∧ (∀ k, k ≠ 11 → k ≠ 12 → k ≠ 13 → t.x87Status.getLsbD k = s.x87Status.getLsbD k) ∧
    t.x87Tag = 0 ∧ t.x87High[d] = 0xFFFF ∧ (∀ j : Fin 8, j ≠ d → t.x87High[j] = s.x87High[j]) ∧
    t.x87Dirty = true

/-- If one of the four legacy SSE2 forms completes: bits 255:128 of YMM[d], every other YMM register, the MM
registers, the x87 state, every general, segment, flag, control and configuration field, the program text and
every byte of memory are unchanged. Rules: 10_state.md R23, R35 (write set of the legacy SSE2 forms). -/
def Obligations.SseFormsFrame : Prop :=
  ∀ (i : Instr) (d : Fin 16) (src : RegMem 16) (s t : State), i.shape = .sse d src → exec i s = .next t →
    s.sameSystem t ∧ s.sameX87 t ∧ t.mm = s.mm ∧ t.readUpper d = s.readUpper d ∧
    (∀ j, j ≠ d → t.readYmm j = s.readYmm j)

/-- If one of the four VEX.128 forms completes: bits 255:128 of YMM[d] are 0; every other YMM register, the MM
registers, the x87 state, every general, segment, flag, control and configuration field, the program text and
every byte of memory are unchanged. Rules: 10_state.md R23, R35 (write set of the VEX.128 forms). -/
def Obligations.Vex128FormsFrame : Prop :=
  ∀ (i : Instr) (d a : Fin 16) (src : RegMem 16) (s t : State), i.shape = .vex false d a src →
    exec i s = .next t →
    s.sameSystem t ∧ s.sameX87 t ∧ t.mm = s.mm ∧ t.readUpper d = 0 ∧
    (∀ j, j ≠ d → t.readYmm j = s.readYmm j)

/-- If one of the four VEX.256 forms completes: every other YMM register, the MM registers, the x87 state, every
general, segment, flag, control and configuration field, the program text and every byte of memory are
unchanged. Rules: 10_state.md R23, R35 (write set of the VEX.256 forms). -/
def Obligations.Vex256FormsFrame : Prop :=
  ∀ (i : Instr) (d a : Fin 16) (src : RegMem 16) (s t : State), i.shape = .vex true d a src →
    exec i s = .next t →
    s.sameSystem t ∧ s.sameX87 t ∧ t.mm = s.mm ∧ (∀ j, j ≠ d → t.readYmm j = s.readYmm j)

/-- For every state, if a step completes then configuration, MXCSR, general registers, EFLAGS, segment registers,
CPL, CR0, CR2, CR4, XCR0, EFER, the program text, every byte of memory, the operating mode and the conditions
computed from them are as before. Rules: 10_state.md R28, R29, R33; 60_exceptions.md R179, R185; 20_memory.md
R47, R55. -/
def Obligations.StepChangesNoSystemState : Prop :=
  ∀ s t : State, step s = .next t →
    s.sameSystem t ∧ t.mode = s.mode ∧ t.ctx = s.ctx ∧ t.alignCheck = s.alignCheck

/-- For each of the 15 forms, if it completes the instruction pointer is the old one plus the length of the
instruction, truncated to 16, 32 or 64 bits as the code width is. Rules: 10_state.md R27 (pc <- pc + len,
truncated to the width in force); 60_exceptions.md R186. -/
def Obligations.CompletedFormsAdvanceThePc : Prop :=
  ∀ (i : Instr) (s t : State), exec i s = .next t →
    t.rip = truncTo s.codeSize (s.rip + BitVec.ofNat 64 i.enc.len)

/-- For every state, if a step ends in a fault then the saved instruction pointer it names is the instruction
pointer the step began with, and an instruction run by itself does the same. Rules: 60_exceptions.md R160, R173
(the saved instruction pointer). -/
def Obligations.FaultsSaveTheInstructionAddress : Prop :=
  (∀ (s : State) (f : Fault), step s = .fault f → f.savedPc = s.rip) ∧
  (∀ (i : Instr) (s : State) (f : Fault), exec i s = .fault f → f.savedPc = s.rip)

/-- For every state that satisfies the invariant (memory and program text in canonical form, the instruction pointer
within the width of the code, and after an MMX form every x87 tag valid and TOS 0), a completed step gives a
state that satisfies it. The canonical forms are the model's own (log 10, 11). Rules: 10_state.md R27, R32, R33;
20_memory.md R47, R55. -/
def Obligations.StepKeepsInvariant : Prop :=
  ∀ s t : State, s.Inv → step s = .next t → t.Inv

/-- State.reset has a canonical memory and program text, an instruction pointer within 16 bits, and x87_dirty false.
The canonical forms, and that both lists are empty where R190 calls memory unspecified, are the model's choice
(log 10, log 11), and so is x87_dirty false (log 14). Rules: 70_reset_and_hazards.md R190; 10_state.md R27, R32,
R33. -/
def Obligations.ResetHasInvariant : Prop :=
  State.reset.Inv

/-- For every form and state: a LOCK prefix, or the form's feature flag being 0 (HAS_MMX for the MMX forms, HAS_SSE2
for the legacy SSE2 forms, HAS_AVX for VEX.128, HAS_AVX2 for VEX.256), makes it raise #UD, in every mode. Rules:
R162. -/
def Obligations.LockOrMissingFeatureIsUd : Prop :=
  ∀ (i : Instr) (s : State),
    (i.enc.lock = true ∨
      (match i.shape with
        | .mmx _ _ => s.config.hasMmx
        | .sse _ _ => s.config.hasSse2
        | .vex false _ _ _ => s.config.hasAvx
        | .vex true _ _ _ => s.config.hasAvx2) = false) →
    exec i s = .fault (.invalidOpcode s.rip)

/-- For every MMX form and state, the outcome is #UD exactly when there is a LOCK prefix, MMX is absent, or CR0.EM
is 1; so CR4.OSFXSR is not tested, in any mode. Rules: R166. -/
def Obligations.MmxUdExactlyOnEmulation : Prop :=
  ∀ (i : Instr) (d : Fin 8) (src : RegMem 8) (s : State), i.shape = .mmx d src →
    (exec i s = .fault (.invalidOpcode s.rip) ↔
      i.enc.lock = true ∨ s.config.hasMmx = false ∨ s.cr0.getLsbD 2 = true)

/-- For every legacy SSE2 form and state, the outcome is #UD exactly when there is a LOCK prefix, SSE2 is absent,
CR0.EM is 1 or CR4.OSFXSR is 0, in every mode. Rules: R163. -/
def Obligations.SseUdExactlyOnControlBits : Prop :=
  ∀ (i : Instr) (d : Fin 16) (src : RegMem 16) (s : State), i.shape = .sse d src →
    (exec i s = .fault (.invalidOpcode s.rip) ↔
      i.enc.lock = true ∨ s.config.hasSse2 = false ∨ s.cr0.getLsbD 2 = true ∨ s.cr4.getLsbD 9 = false)

/-- For every VEX form and state, the outcome is #UD exactly when there is a LOCK prefix, the feature flag (AVX2 for
L = 1, AVX for L = 0) is 0, the mode is real-address or virtual-8086, CR4.OSXSAVE is 0, or XCR0[2:1] is not 11b;
so CR0.EM and CR4.OSFXSR are not tested. Rules: 60_exceptions.md R164 (a) and (b), R162, R165. -/
def Obligations.VexUdExactlyOnModeAndState : Prop :=
  ∀ (i : Instr) (l : Bool) (d a : Fin 16) (src : RegMem 16) (s : State), i.shape = .vex l d a src →
    (exec i s = .fault (.invalidOpcode s.rip) ↔
      i.enc.lock = true ∨ (if l then s.config.hasAvx2 else s.config.hasAvx) = false ∨
      s.mode = .real ∨ s.mode = .v8086 ∨ s.cr4.getLsbD 18 = false ∨
      s.xcr0.getLsbD 1 = false ∨ s.xcr0.getLsbD 2 = false)

/-- For every form and every state with CR0.TS = 1: the outcome is #UD when some #UD condition of R162 to R166
holds, and #NM otherwise, in every mode. Rules: R167. -/
def Obligations.NmAfterEveryUdCondition : Prop :=
  ∀ (i : Instr) (s : State), s.cr0.getLsbD 3 = true →
    (s.udFor i = true → exec i s = .fault (.invalidOpcode s.rip)) ∧
    (s.udFor i = false → exec i s = .fault (.deviceNotAvailable s.rip))

/-- For every MMX form in a state with no #UD condition, CR0.TS = 0 and x87 ES = 1 the outcome is #MF; no legacy
SSE2 or VEX form ever ends in #MF. That #MF is raised with CR0.NE = 0 too, where R168 has the FERR# mechanism
instead, is the model's choice (log 25). Rules: 60_exceptions.md R168, R172. -/
def Obligations.MfForMmxFormsOnly : Prop :=
  (∀ (i : Instr) (s : State), isMmxForm i = true → s.udFor i = false → s.ts = false →
    s.x87Status.getLsbD 7 = true → exec i s = .fault (.x87Error s.rip)) ∧
  (∀ (i : Instr) (s : State) (pc : BitVec 64), isMmxForm i = false → exec i s ≠ .fault (.x87Error pc))

/-- A form ends in #AC only if it is an MMX form with a memory operand whose linear address is not a multiple of 4
while CR0.AM = 1, EFLAGS.AC = 1 and CPL = 3; and an enabled MMX form with such an operand that Translate,
whatever it is, answers addresses for does end in #AC. Rules: 60_exceptions.md R171; 20_memory.md R45. -/
def Obligations.AlignmentCheckForMmxFormsOnly : Prop :=
  (∀ (i : Instr) (s : State) (pc : BitVec 64), exec i s = .fault (.alignmentCheck pc) →
    s.cr0.getLsbD 18 = true ∧ s.eflags.getLsbD 18 = true ∧ s.cpl = 3 ∧
    ∃ d m, i.shape = .mmx d (.mem m) ∧ (s.linear m.seg (s.effAddr i.enc.len m)).toNat % 4 ≠ 0) ∧
  (∀ (i : Instr) (d : Fin 8) (m : MemOp) (s : State), i.shape = .mmx d (.mem m) → i.enc.lock = false →
    s.enabledMmx = true → s.alignCheck = true →
    (s.linear m.seg (s.effAddr i.enc.len m)).toNat % 4 ≠ 0 →
    (∃ as, s.translate m.seg (s.effAddr i.enc.len m) 4 = .ok as) →
    exec i s = .fault (.alignmentCheck s.rip))

/-- For every legacy SSE2 form with a memory operand whose linear address is not a multiple of 16, in every state
where the class is enabled and without LOCK, the outcome is #GP(0), whatever the rest of the state is. Rules:
20_memory.md R43; 60_exceptions.md R169 (a). -/
def Obligations.MisalignedSseOperandIsGp : Prop :=
  ∀ (i : Instr) (d : Fin 16) (m : MemOp) (s : State), i.shape = .sse d (.mem m) → i.enc.lock = false →
    s.enabledSse = true → (s.linear m.seg (s.effAddr i.enc.len m)).toNat % 16 ≠ 0 →
    exec i s = .fault (.generalProtection s.rip)

/-- For every VEX form with a memory operand of n bytes (16 or 32), ready and without LOCK: with VEX_ALIGN16 set and
a linear address that is not a multiple of n the outcome is #GP(0); with it clear, an operand that Translate,
whatever it is, answers addresses of ordinary memory for completes at any address. Rules: 20_memory.md R44, R58;
92_eei_decisions.md D7. -/
def Obligations.VexAlignmentFollowsTheParameter : Prop :=
  ∀ (i : Instr) (l : Bool) (d a : Fin 16) (m : MemOp) (s : State), i.shape = .vex l d a (.mem m) →
    i.enc.lock = false → s.vexReady = true → (if l then s.config.hasAvx2 else s.config.hasAvx) = true →
    (s.config.vexAlign16 = true →
      (s.linear m.seg (s.effAddr i.enc.len m)).toNat % (if l then 32 else 16) ≠ 0 →
      exec i s = .fault (.generalProtection s.rip)) ∧
    (s.config.vexAlign16 = false →
      (∃ as, s.translate m.seg (s.effAddr i.enc.len m) (if l then 32 else 16) = .ok as ∧
        as.all (ordinaryAt s.config.ordinary) = true) →
      ∃ t, exec i s = .next t)

/-- Where the oracle has no row for the operand (log 39), translation of an operand of n bytes at ea fails with
#GP(0) in real-address and virtual-8086 mode when some byte lies beyond FFFFH or beyond the segment limit; in
protected and compatibility mode, when the segment is unreadable or null or some byte lies beyond its limit,
with #SS(0) for SS and #GP(0) for the others; in 64-bit mode, when some byte's linear address is not canonical,
with #SS(0) for SS and #GP(0) for the others. The model's choices: a null selector is one with bits 15:2 zero
(log 16); every byte must be canonical, not the first alone (log 18); in real-address and virtual-8086 mode SS
gives #GP(0) too, and so does a byte beyond the limit (log 36); the bytes of the operand are at ea + k with no
wrap at the address size, so that the limit is compared with ea + n without a modulus and an operand past
FFFFFFFFh violates every limit, and in 64-bit mode ea + k is taken modulo 2^64 (log 38). Rules: 60_exceptions.md
R169 (b) to (d), R170; 20_memory.md R50. -/
def Obligations.SegmentChecksFault : Prop :=
  ∀ (s : State) (g : Seg) (ea : Word) (n : Nat), s.oracle g ea n = none →
    ((s.mode = .real ∨ s.mode = .v8086) →
      (ea.toNat + n > 0x10000 ∨ ea.toNat + n > (s.segReg g).limit.toNat + 1) → s.translate g ea n = .error .gp) ∧
    ((s.mode = .prot16 ∨ s.mode = .prot32 ∨ s.mode = .compat) →
      ((s.segReg g).readable = false ∨ (s.segReg g).selector.toNat < 4 ∨
        ea.toNat + n > (s.segReg g).limit.toNat + 1) →
      s.translate g ea n = .error (if g = .ss then .ss else .gp)) ∧
    (s.mode = .long64 →
      (∃ k < n, ∃ j, 47 ≤ j ∧ j < 64 ∧
        (s.linear g (ea + BitVec.ofNat 64 k)).getLsbD j ≠ (s.linear g (ea + BitVec.ofNat 64 k)).getLsbD 63) →
      s.translate g ea n = .error (if g = .ss then .ss else .gp))

/-- Where the oracle has no row for the operand (log 39) and the segment check passes: when every byte's page may be
read, translation answers for each byte the address its page maps it to; when a byte of the operand is the first
whose page may not be read, translation ends in #PF with that byte's linear address and an error code with W/R
0, I/D 0, U/S 1 exactly at CPL 3, P and RSVD 0 when the page is not present, and otherwise P 1 and RSVD 1
exactly when the walk meets a reserved bit. That a present page faults with P 1, pages of 4096 bytes and the
first byte in address order are the model's (log 19). So is where the bytes are: at ea + k modulo 2^64 and not
modulo the address size, so that in 64-bit mode an operand past the last address goes on at address 0 (log 38),
and outside it at base + ea + k modulo 2^32 (log 17). Rules: 60_exceptions.md R161, R174; 20_memory.md R50. -/
def Obligations.PageFaultNamesTheFirstBadByte : Prop :=
  ∀ (s : State) (g : Seg) (ea : Word) (n : Nat), s.oracle g ea n = none → s.segOk g ea n = true →
    ((s.linearBytes g ea n).all s.pageOk = true →
      s.translate g ea n = .ok ((s.linearBytes g ea n).map s.physOf)) ∧
    (∀ (pre post : List Word) (b : Word), s.linearBytes g ea n = pre ++ b :: post → pre.all s.pageOk = true →
      s.pageOk b = false →
      ∃ code, s.translate g ea n = .error (.pf code b) ∧ code.getLsbD 1 = false ∧ code.getLsbD 4 = false ∧
        (code.getLsbD 2 = true ↔ s.cpl = 3) ∧
        (∀ pages, s.pageMap = some pages → findPage pages (b.toNat / 4096) = none →
          code.getLsbD 0 = false ∧ code.getLsbD 3 = false) ∧
        (∀ pages e, s.pageMap = some pages → findPage pages (b.toNat / 4096) = some e →
          code.getLsbD 0 = true ∧ code.getLsbD 3 = e.reserved))

/-- Whenever a memory source is read, Translate, whatever it is, answers one address for each of the 4, 16 or 32
bytes of the operand, and the byte at the k-th address is bits 8k+7:8k of the value: k below 4 for an m32 (the
upper half being 0), below 16 for an m128 (below 8 when FETCH64), below 32 for an m256. Rules: 20_memory.md R41,
R42, R46. -/
def Obligations.MemoryOperandsAreLittleEndian : Prop :=
  ∀ (s : State) (len : Nat) (m : MemOp),
    (∀ v, s.mmSource len (.mem m) = .ok v → v.extractLsb' 32 32 = 0 ∧
      ∃ as, s.translate m.seg (s.effAddr len m) 4 = .ok as ∧ as.length = 4 ∧
        ∀ k < 4, v.extractLsb' (8 * k) 8 = byteAt s.mem (as.getD k 0)) ∧
    (∀ c v, s.xmmSource c len (.mem m) = .ok v →
      ∃ as, s.translate m.seg (s.effAddr len m) 16 = .ok as ∧ as.length = 16 ∧
        ∀ k < (if s.config.fetch64 then 8 else 16),
          v.extractLsb' (8 * k) 8 = byteAt s.mem (as.getD k 0)) ∧
    (∀ v, s.ymmSource len (.mem m) = .ok v →
      ∃ as, s.translate m.seg (s.effAddr len m) 32 = .ok as ∧ as.length = 32 ∧
        ∀ k < 32, v.extractLsb' (8 * k) 8 = byteAt s.mem (as.getD k 0))

/-- For every form and state and either value of FETCH64, a completed form completes with the same state but for the
parameter itself, a fault is the same fault and a refusal the same refusal. That the faults are the same, where
R46 lets an implementation with FETCH64 raise fewer page faults, is the model's choice (decision D8, log 20).
Rules: 20_memory.md R46; 93_implementation_defined.md U1; 92_eei_decisions.md D8. -/
def Obligations.FetchWidthChangesNoOutcome : Prop :=
  ∀ (i : Instr) (s : State) (b : Bool),
    (∀ t, exec i s = .next t →
      exec i { s with config := { s.config with fetch64 := b } } =
        .next { t with config := { t.config with fetch64 := b } }) ∧
    (∀ f, exec i s = .fault f → exec i { s with config := { s.config with fetch64 := b } } = .fault f) ∧
    (∀ r, exec i s = .refused r → exec i { s with config := { s.config with fetch64 := b } } = .refused r)

/-- A form whose memory operand passes every fault check of R58, Translate being whatever it is, but is not wholly
in ordinary memory is refused by name; and whenever a form is refused it is by that name, for a memory operand
that passes every one of these checks and has a byte outside ordinary memory. That the refusal comes after the
fault checks is the model's choice (log 22). Rules: 20_memory.md R47; 92_eei_decisions.md D8. -/
def Obligations.OperandOutsideOrdinaryMemoryIsRefused : Prop :=
  (∀ (i : Instr) (c : OpClass) (m : MemOp) (n : Nat) (s : State), memOperandOf i = some (c, m, n) →
    s.udFor i = false → s.ts = false → (isMmxForm i = true → s.x87Pending = false) →
    s.misaligned c m.seg (s.effAddr i.enc.len m) n = false →
    s.alignTrap c m.seg (s.effAddr i.enc.len m) = false →
    (∃ as, s.translate m.seg (s.effAddr i.enc.len m) n = .ok as ∧
      as.all (ordinaryAt s.config.ordinary) = false) →
    exec i s = .refused .notOrdinaryMemory) ∧
  (∀ (i : Instr) (s : State) (r : Refusal), exec i s = .refused r →
    r = .notOrdinaryMemory ∧ s.udFor i = false ∧ s.ts = false ∧ (isMmxForm i = true → s.x87Pending = false) ∧
    ∃ c m n, memOperandOf i = some (c, m, n) ∧
      s.misaligned c m.seg (s.effAddr i.enc.len m) n = false ∧
      s.alignTrap c m.seg (s.effAddr i.enc.len m) = false ∧
      ∃ as, s.translate m.seg (s.effAddr i.enc.len m) n = .ok as ∧
        ∃ p ∈ as, ordinaryAt s.config.ordinary p = false)

/-- For each element width, when the VEX.128 form with the destination as its first source and the legacy SSE2 form
both complete on the same operands in the same state, they leave the same low 128 bits; the VEX.128 form zeroes
bits 255:128 and the legacy form keeps them. Rules: 95_test_vectors.md section 2.3; 10_state.md R23;
70_reset_and_hazards.md R196 (b). -/
def Obligations.VexAndLegacyFormsAgreeBelow128 : Prop :=
  ∀ (e : Enc) (d : Fin 16) (src : RegMem 16) (s t u : State),
    (exec (.vpunpcklbwXmm e d d src) s = .next t → exec (.punpcklbwXmm e d src) s = .next u →
      t.readXmm d = u.readXmm d ∧ t.readUpper d = 0 ∧ u.readUpper d = s.readUpper d) ∧
    (exec (.vpunpcklwdXmm e d d src) s = .next t → exec (.punpcklwdXmm e d src) s = .next u →
      t.readXmm d = u.readXmm d ∧ t.readUpper d = 0 ∧ u.readUpper d = s.readUpper d) ∧
    (exec (.vpunpckldqXmm e d d src) s = .next t → exec (.punpckldqXmm e d src) s = .next u →
      t.readXmm d = u.readXmm d ∧ t.readUpper d = 0 ∧ u.readUpper d = s.readUpper d) ∧
    (exec (.vpunpcklqdqXmm e d d src) s = .next t → exec (.punpcklqdqXmm e d src) s = .next u →
      t.readXmm d = u.readXmm d ∧ t.readUpper d = 0 ∧ u.readUpper d = s.readUpper d)

/-- For every memory operand, the effective address is, as a number, the sum modulo 2^A (A = 16, 32, 64) of the base
read at width A (or the address of the next instruction), the index read at width A times 1, 2, 4 or 8, and the
sign-extended displacement. Rules: 30_encoding.md R65, R66, R67, R68. -/
def Obligations.EffectiveAddressIsAModularSum : Prop :=
  ∀ (s : State) (len : Nat) (m : MemOp),
    ((s.effAddr len m).toNat : Int) =
      ((match m.base with
          | .none => 0
          | .gpr r => ((s.gpr[r].toNat % 2 ^ (match m.asize with | .a16 => 16 | .a32 => 32 | .a64 => 64) : Nat) : Int)
          | .next => ((s.rip.toNat + len : Nat) : Int)) +
        (match m.index with
          | none => 0
          | some (r, k) =>
            ((s.gpr[r].toNat % 2 ^ (match m.asize with | .a16 => 16 | .a32 => 32 | .a64 => 64) * 2 ^ k.val : Nat) : Int)) +
        m.disp.toInt) % 2 ^ (match m.asize with | .a16 => 16 | .a32 => 32 | .a64 => 64)

/-- For every mode and code-segment D bit, every well-formed instruction of the 15 forms whose length its encoding
can have, with every operand, and whatever bytes follow, the decoder reads the instruction back from its
encoding. Rules: 30_encoding.md R60 to R79, R85. -/
def Obligations.DecodeOfEncodeIsTheInstruction : Prop :=
  ∀ (c : Ctx) (i : Instr) (rest : List Byte), i.wf c = true → i.lenFits c = true →
    decode c (i.encode c ++ rest) = .instr i

/-- For every mode and byte string, if the decoder answers an instruction then it is well formed in that mode, its
length is one its encoding can have, at most 15 bytes and at most the bytes given. Rules: 30_encoding.md R74,
R75, R79, R85. -/
def Obligations.DecodedInstructionsAreWellFormed : Prop :=
  ∀ (c : Ctx) (bytes : List Byte) (i : Instr), decode c bytes = .instr i →
    i.wf c = true ∧ i.lenFits c = true ∧ i.enc.len ≤ 15 ∧ i.enc.len ≤ bytes.length

/-- In every state whose fetch does not fault: when the bytes at the instruction pointer decode to an instruction
the step is exec of it on the same state, adding nothing; a decoded #UD or #GP is that fault; bytes outside the
group, or a text that ends, are refused. The model's choices: a text that ends inside an instruction is refused
as endOfText (log 11), and a non-canonical instruction pointer in 64-bit mode faults with #GP (log 13). Rules:
60_exceptions.md R160; 30_encoding.md R77, R85. -/
def Obligations.StepRunsTheDecodedInstruction : Prop :=
  ∀ s : State,
    (s.fetchFaults = false →
      (∀ i, decode s.ctx s.fetch = .instr i → step s = exec i s) ∧
      (decode s.ctx s.fetch = .ud → step s = .fault (.invalidOpcode s.rip)) ∧
      (decode s.ctx s.fetch = .gp → step s = .fault (.generalProtection s.rip)) ∧
      (decode s.ctx s.fetch = .notInGroup → step s = .refused .notInGroup) ∧
      (decode s.ctx s.fetch = .textEnds → step s = .refused .endOfText)) ∧
    (s.fetchFaults = true → step s = .fault (.generalProtection s.rip))

/-- In every state whose fetch does not fault, if the program text at the instruction pointer holds, byte by byte,
the encoding of a well-formed instruction whose length fits, then the step is exec of that instruction on that
state, whatever follows it in the text. The model's choices: the text is keyed by the linear address of CS and
the instruction pointer (log 11), the fetch is checked for a canonical instruction pointer only, not for limit
or page (log 13), and an instruction may wrap past the last code offset (log 37). Rules: 30_encoding.md R60,
R77; 20_memory.md R40, R48. -/
def Obligations.StepRunsAnEncodingInTheText : Prop :=
  ∀ (i : Instr) (s : State), i.wf s.ctx = true → i.lenFits s.ctx = true → s.fetchFaults = false →
    (∀ k, k < i.enc.len → cellAt s.text (s.textAddr k) = (i.encode s.ctx)[k]?) →
    step s = exec i s

/-- In 64-bit mode 0F 60 C1, 66 44 0F 60 C1, C5 F1 60 C2, C4 C1 71 60 C2, C4 01 2D 62 0C C8 and 66 0F 6C 1D 00 01 00
00, and in 32-bit protected mode 66 0F 60 4D F0, decode to the forms and operands the spec gives. Rules:
30_encoding.md R86; 95_test_vectors.md sections 3.1 and 3.2. -/
def Obligations.SpecWordsDecode : Prop :=
  decode ⟨.long64, false⟩ [0x0F, 0x60, 0xC1] = .instr (.punpcklbwMm ⟨3, false⟩ 0 (.reg 1)) ∧
  decode ⟨.long64, false⟩ [0x66, 0x44, 0x0F, 0x60, 0xC1] = .instr (.punpcklbwXmm ⟨5, false⟩ 8 (.reg 1)) ∧
  decode ⟨.long64, false⟩ [0xC5, 0xF1, 0x60, 0xC2] = .instr (.vpunpcklbwXmm ⟨4, false⟩ 0 1 (.reg 2)) ∧
  decode ⟨.long64, false⟩ [0xC4, 0xC1, 0x71, 0x60, 0xC2] = .instr (.vpunpcklbwXmm ⟨5, false⟩ 0 1 (.reg 10)) ∧
  decode ⟨.long64, false⟩ [0xC4, 0x01, 0x2D, 0x62, 0x0C, 0xC8] =
    .instr (.vpunpckldqYmm ⟨6, false⟩ 9 10 (.mem ⟨.ds, .a64, .gpr 8, some (9, 3), 0⟩)) ∧
  decode ⟨.long64, false⟩ [0x66, 0x0F, 0x6C, 0x1D, 0x00, 0x01, 0x00, 0x00] =
    .instr (.punpcklqdqXmm ⟨8, false⟩ 3 (.mem ⟨.ds, .a64, .next, none, 0x100⟩)) ∧
  decode ⟨.prot32, true⟩ [0x66, 0x0F, 0x60, 0x4D, 0xF0] =
    .instr (.punpcklbwXmm ⟨5, false⟩ 1 (.mem ⟨.ss, .a32, .gpr 5, none, 0xFFFFFFF0⟩))

/-- For every payload byte P of a two-byte VEX prefix and either W, the three-byte prefix with the same R', X' = B'
= 1, map 00001 and the same vvvv', L, pp has the same fields. Rules: 30_encoding.md R71, R72, R80 (WIG). -/
def Obligations.TwoByteVexStandsForThreeByteVex : Prop :=
  ∀ (p : Byte) (w : BitVec 1),
    vexOf3 (p.extractLsb' 7 1 ++ 3#2 ++ 1#5) (w ++ p.extractLsb' 0 7) = vexOf2 p

/-- In every mode, behind any legacy prefixes and, in 64-bit mode, with or without a REX byte, as long as what
decides lies within the first 15 bytes: 0F 60/61/62/6C with F2 or F3 among the prefixes, and 0F 6C without 66,
are answered as not of the group. So are, behind segment overrides and 67 where a VEX prefix is recognised and
allowed, C5 with pp other than 01, and C4 with a map other than 00001 or pp other than 01, whatever follows; and
outside 64-bit mode C4 or C5 followed by a byte whose bits 7:6 are not 11b. Rules: 30_encoding.md R74 (c), R77,
R80, R85; 92_eei_decisions.md D16. -/
def Obligations.NeighbouringEncodingsAreRefused : Prop :=
  (∀ (c : Ctx) (ps rex : List Byte) (op : Byte) (r : List Byte),
    (∀ p ∈ ps, (Prefixes.empty.note c p).isSome = true) →
    (rex = [] ∨ ∃ b : Byte, rex = [b] ∧ c.mode = .long64 ∧ b.extractLsb' 4 4 = 4) →
    ps.length + rex.length + 2 ≤ 15 →
    ((0xF2 ∈ ps ∨ 0xF3 ∈ ps) → op = 0x60 ∨ op = 0x61 ∨ op = 0x62 ∨ op = 0x6C →
      decode c (ps ++ rex ++ 0x0F :: op :: r) = .notInGroup) ∧
    (0x66 ∉ ps → decode c (ps ++ rex ++ 0x0F :: 0x6C :: r) = .notInGroup)) ∧
  (∀ (c : Ctx) (ps : List Byte) (p p1 p2 : Byte) (r : List Byte), c.mode ≠ .real → c.mode ≠ .v8086 →
    (∀ q ∈ ps, (Prefixes.empty.note c q).isSome = true ∧ q ≠ 0xF0 ∧ q ≠ 0x66 ∧ q ≠ 0xF2 ∧ q ≠ 0xF3) →
    (ps.length + 2 ≤ 15 → c.mode = .long64 ∨ p.extractLsb' 6 2 = 3 → p.extractLsb' 0 2 ≠ 1 →
      decode c (ps ++ 0xC5 :: p :: r) = .notInGroup) ∧
    (ps.length + 3 ≤ 15 → c.mode = .long64 ∨ p1.extractLsb' 6 2 = 3 →
      p1.extractLsb' 0 5 ≠ 1 ∨ p2.extractLsb' 0 2 ≠ 1 →
      decode c (ps ++ 0xC4 :: p1 :: p2 :: r) = .notInGroup)) ∧
  (∀ (c : Ctx) (ps : List Byte) (b b1 : Byte) (r : List Byte),
    (∀ p ∈ ps, (Prefixes.empty.note c p).isSome = true) → ps.length + 2 ≤ 15 →
    c.mode ≠ .long64 → b = 0xC4 ∨ b = 0xC5 → b1.extractLsb' 6 2 ≠ 3 →
    decode c (ps ++ b :: b1 :: r) = .notInGroup)

/-- In every mode, where C4 or C5 begins a VEX prefix behind any legacy prefixes and, in 64-bit mode, with or
without a REX byte: if F0, 66, F2 or F3 is anywhere among the prefixes, or there is a REX byte, or the mode is
real-address or virtual-8086 mode, then it decodes to #UD, whatever follows, when so few bytes stand before it
that the longest VEX instruction (10 bytes with C4, 9 with C5) still ends within 15; and behind more of them, as
long as the two bytes that decide lie within the first 15, it decodes to #UD or, being longer than 15 bytes, to
#GP (the length coming before #UD, log 24), and never to an instruction or a refusal. Rules: 30_encoding.md R74
(a), (b), R77 steps 3 and 6, R79; 60_exceptions.md R164 (a), (c), R172. -/
def Obligations.BarredVexPrefixesAreUd : Prop :=
  ∀ (c : Ctx) (ps rex : List Byte) (b b1 : Byte) (r : List Byte),
    (∀ p ∈ ps, (Prefixes.empty.note c p).isSome = true) →
    (rex = [] ∨ ∃ x : Byte, rex = [x] ∧ c.mode = .long64 ∧ x.extractLsb' 4 4 = 4) →
    b = 0xC4 ∨ b = 0xC5 → c.mode = .long64 ∨ b1.extractLsb' 6 2 = 3 →
    (0xF0 ∈ ps ∨ 0x66 ∈ ps ∨ 0xF2 ∈ ps ∨ 0xF3 ∈ ps ∨ rex ≠ [] ∨ c.mode = .real ∨ c.mode = .v8086) →
    (ps.length + rex.length + (if b = 0xC4 then 10 else 9) ≤ 15 →
      decode c (ps ++ rex ++ b :: b1 :: r) = .ud) ∧
    (ps.length + rex.length + 2 ≤ 15 →
      decode c (ps ++ rex ++ b :: b1 :: r) = .ud ∨ decode c (ps ++ rex ++ b :: b1 :: r) = .gp)

/-- In every mode: a byte string that steps 1 to 6 of R77, run on all its bytes, read as an instruction longer than
15 bytes decodes to #GP(0). The encoding of any well-formed instruction, with any operands, behind any legacy
prefixes that bring its length above 15 decodes to #GP(0), whatever follows it; the prefixes hold no F2 or F3
before a legacy form, which then is not of the group (R80), and 67 only where it does not change the address
size of the operand; before a VEX form F0, 66, F2 and F3 are among them, the length coming before #UD (R172, log
24). A byte string whose first 15 bytes are all legacy prefixes decodes to #GP(0) (the model's choice for
strings it does not look beyond, log 12). 13 or 14 prefixes 66 before 0F 60 and a register ModRM give #GP(0),
and 12 of them PUNPCKLBW xmm of 15 bytes. Rules: 30_encoding.md R77 step 6, R79; 60_exceptions.md R169 (e),
R172. -/
def Obligations.OverlongInstructionsAreGp : Prop :=
  (∀ (c : Ctx) (bytes : List Byte) (i : Instr), decodeAll c bytes = .instr i → 15 < i.enc.len →
    decode c bytes = .gp) ∧
  (∀ (c : Ctx) (i : Instr) (ps rest : List Byte), i.wf c = true → i.lenFits c = true →
    (∀ p ∈ ps, (Prefixes.empty.note c p).isSome = true) →
    (isVexForm i = true ∨ (0xF2 ∉ ps ∧ 0xF3 ∉ ps)) →
    (0x67 ∈ ps → ∀ k m n, memOperandOf i = some (k, m, n) → m.asize ≠ c.defaultAddr) →
    15 < ps.length + i.enc.len → decode c (ps ++ i.encode c ++ rest) = .gp) ∧
  (∀ (c : Ctx) (bytes : List Byte), 15 ≤ bytes.length →
    (∀ b ∈ bytes.take 15, (Prefixes.empty.note c b).isSome = true) → decode c bytes = .gp) ∧
  (∀ (c : Ctx) (reg rm : BitVec 3) (k : Nat) (r : List Byte), k = 13 ∨ k = 14 →
    decode c (List.replicate k 0x66 ++ [0x0F, 0x60, 3#2 ++ reg ++ rm] ++ r) = .gp) ∧
  (∀ (c : Ctx) (reg rm : BitVec 3) (r : List Byte),
    decode c (List.replicate 12 0x66 ++ [0x0F, 0x60, 3#2 ++ reg ++ rm] ++ r) =
      .instr (.punpcklbwXmm ⟨15, false⟩ (regNum false reg) (.reg (regNum false rm))))

/-- After reset the MM and YMM registers, x87 status and high parts are 0, the tag word 5555h, MXCSR 1F80h, EFLAGS
2, the pc FFF0h with CS selector F000h and base FFFF0000h, the other segments selector 0, base 0, limit FFFFh,
read/write, the general registers 0, CR0 60000010h, CR4 0, XCR0 1, EFER 0, mode real, CPL 0; INIT# keeps the MM
and YMM registers, MXCSR, x87 state, XCR0, memory and bits 30:29 of CR0 and sets the general and segment
registers, EFLAGS, the pc, the other bits of CR0, CR4, EFER, mode and CPL as reset does. The model's choices:
RAX (the self-test result) and RDX (the processor signature) are 0 (log 8); the limit, attributes, L and D of CS
and L and D of the others after INIT# are the family's, as after reset (log 9); INIT# keeps x87_dirty (log 14);
CD and NW are bits 30 and 29 (log 33). Rules: 70_reset_and_hazards.md R190; 10_state.md R30. -/
def Obligations.ResetAndInitLeaveTheTableValues : Prop :=
  ((∀ i, State.reset.readMm i = 0) ∧ (∀ i, State.reset.readYmm i = 0) ∧
    (∀ i : Fin 8, State.reset.x87High[i] = 0) ∧ State.reset.x87Status = 0 ∧ State.reset.x87Tag = 0x5555 ∧
    State.reset.mxcsr = 0x1F80 ∧ State.reset.eflags = 2 ∧ State.reset.rip = 0xFFF0 ∧
    State.reset.cs.selector = 0xF000 ∧ State.reset.cs.base = 0xFFFF0000 ∧
    (∀ g, g ≠ .cs → (State.reset.segReg g).selector = 0 ∧ (State.reset.segReg g).base = 0 ∧
      (State.reset.segReg g).limit = 0xFFFF ∧ (State.reset.segReg g).readable = true ∧
      (State.reset.segReg g).writable = true) ∧
    (∀ r : Fin 16, State.reset.gpr[r] = 0) ∧
    State.reset.cr0 = 0x60000010 ∧ State.reset.cr4 = 0 ∧ State.reset.xcr0 = 1 ∧ State.reset.efer = 0 ∧
    State.reset.mode = .real ∧ State.reset.cpl = 0) ∧
  (∀ s : State, s.afterInit.mm = s.mm ∧ s.afterInit.ymm = s.ymm ∧ s.afterInit.mxcsr = s.mxcsr ∧
    s.sameX87 s.afterInit ∧ s.afterInit.xcr0 = s.xcr0 ∧ s.afterInit.mem = s.mem ∧
    s.afterInit.eflags = 2 ∧ s.afterInit.rip = 0xFFF0 ∧ (∀ r : Fin 16, s.afterInit.gpr[r] = 0) ∧
    (∀ g, s.afterInit.segReg g = State.reset.segReg g) ∧ s.afterInit.cr4 = 0 ∧ s.afterInit.efer = 0 ∧
    s.afterInit.mode = .real ∧ s.afterInit.cpl = 0 ∧
    (∀ k < 32, s.afterInit.cr0.getLsbD k =
      if k = 29 ∨ k = 30 then s.cr0.getLsbD k else (0x60000010#32).getLsbD k))

/-- In the reset state, with any implementation parameters: an MMX form completes, for every destination and every
register or readable memory source without LOCK, where MMX is present; every legacy SSE2 form and every VEX form
raises #UD. Rules: R191. -/
def Obligations.StraightOutOfReset : Prop :=
  ∀ (i : Instr) (p : Config),
    (∀ d src, i.shape = .mmx d src → i.enc.lock = false → p.hasMmx = true →
      ({ State.reset with config := p } : State).mmSrcOk i.enc.len src = true →
      ∃ t, exec i { State.reset with config := p } = .next t) ∧
    (∀ d src, i.shape = .sse d src →
      exec i { State.reset with config := p } = .fault (.invalidOpcode 0xFFF0)) ∧
    (∀ l d a src, i.shape = .vex l d a src →
      exec i { State.reset with config := p } = .fault (.invalidOpcode 0xFFF0))
end

