-- ==== Sys2Proof/Laws/State.lean ====
section
/-! SUPPORT. What each update of the state does to each field, one lemma each. -/

namespace Sys2Proof.Machine

variable (s : State)

/-! ### `writeMm` -/

@[simp] theorem writeMm_config (i : Fin 8) (v : BitVec 64) : (s.writeMm i v).config = s.config := rfl
@[simp] theorem writeMm_mm (i : Fin 8) (v : BitVec 64) : (s.writeMm i v).mm = s.mm.set i v := rfl
@[simp] theorem writeMm_x87High (i : Fin 8) (v : BitVec 64) : (s.writeMm i v).x87High = s.x87High := rfl
@[simp] theorem writeMm_x87Status (i : Fin 8) (v : BitVec 64) : (s.writeMm i v).x87Status = s.x87Status := rfl
@[simp] theorem writeMm_x87Tag (i : Fin 8) (v : BitVec 64) : (s.writeMm i v).x87Tag = s.x87Tag := rfl
@[simp] theorem writeMm_x87Dirty (i : Fin 8) (v : BitVec 64) : (s.writeMm i v).x87Dirty = s.x87Dirty := rfl
@[simp] theorem writeMm_ymm (i : Fin 8) (v : BitVec 64) : (s.writeMm i v).ymm = s.ymm := rfl
@[simp] theorem writeMm_mxcsr (i : Fin 8) (v : BitVec 64) : (s.writeMm i v).mxcsr = s.mxcsr := rfl
@[simp] theorem writeMm_gpr (i : Fin 8) (v : BitVec 64) : (s.writeMm i v).gpr = s.gpr := rfl
@[simp] theorem writeMm_rip (i : Fin 8) (v : BitVec 64) : (s.writeMm i v).rip = s.rip := rfl
@[simp] theorem writeMm_eflags (i : Fin 8) (v : BitVec 64) : (s.writeMm i v).eflags = s.eflags := rfl
@[simp] theorem writeMm_es (i : Fin 8) (v : BitVec 64) : (s.writeMm i v).es = s.es := rfl
@[simp] theorem writeMm_cs (i : Fin 8) (v : BitVec 64) : (s.writeMm i v).cs = s.cs := rfl
@[simp] theorem writeMm_ss (i : Fin 8) (v : BitVec 64) : (s.writeMm i v).ss = s.ss := rfl
@[simp] theorem writeMm_ds (i : Fin 8) (v : BitVec 64) : (s.writeMm i v).ds = s.ds := rfl
@[simp] theorem writeMm_fs (i : Fin 8) (v : BitVec 64) : (s.writeMm i v).fs = s.fs := rfl
@[simp] theorem writeMm_gs (i : Fin 8) (v : BitVec 64) : (s.writeMm i v).gs = s.gs := rfl
@[simp] theorem writeMm_cpl (i : Fin 8) (v : BitVec 64) : (s.writeMm i v).cpl = s.cpl := rfl
@[simp] theorem writeMm_cr0 (i : Fin 8) (v : BitVec 64) : (s.writeMm i v).cr0 = s.cr0 := rfl
@[simp] theorem writeMm_cr2 (i : Fin 8) (v : BitVec 64) : (s.writeMm i v).cr2 = s.cr2 := rfl
@[simp] theorem writeMm_cr4 (i : Fin 8) (v : BitVec 64) : (s.writeMm i v).cr4 = s.cr4 := rfl
@[simp] theorem writeMm_xcr0 (i : Fin 8) (v : BitVec 64) : (s.writeMm i v).xcr0 = s.xcr0 := rfl
@[simp] theorem writeMm_efer (i : Fin 8) (v : BitVec 64) : (s.writeMm i v).efer = s.efer := rfl
@[simp] theorem writeMm_mem (i : Fin 8) (v : BitVec 64) : (s.writeMm i v).mem = s.mem := rfl
@[simp] theorem writeMm_text (i : Fin 8) (v : BitVec 64) : (s.writeMm i v).text = s.text := rfl
@[simp] theorem writeMm_mode (i : Fin 8) (v : BitVec 64) : (s.writeMm i v).mode = s.mode := rfl
@[simp] theorem writeMm_ctx (i : Fin 8) (v : BitVec 64) : (s.writeMm i v).ctx = s.ctx := rfl
@[simp] theorem writeMm_codeSize (i : Fin 8) (v : BitVec 64) : (s.writeMm i v).codeSize = s.codeSize := rfl

/-! ### `writeYmm` -/

@[simp] theorem writeYmm_config (i : Fin 16) (v : BitVec 256) : (s.writeYmm i v).config = s.config := rfl
@[simp] theorem writeYmm_mm (i : Fin 16) (v : BitVec 256) : (s.writeYmm i v).mm = s.mm := rfl
@[simp] theorem writeYmm_x87High (i : Fin 16) (v : BitVec 256) : (s.writeYmm i v).x87High = s.x87High := rfl
@[simp] theorem writeYmm_x87Status (i : Fin 16) (v : BitVec 256) : (s.writeYmm i v).x87Status = s.x87Status := rfl
@[simp] theorem writeYmm_x87Tag (i : Fin 16) (v : BitVec 256) : (s.writeYmm i v).x87Tag = s.x87Tag := rfl
@[simp] theorem writeYmm_x87Dirty (i : Fin 16) (v : BitVec 256) : (s.writeYmm i v).x87Dirty = s.x87Dirty := rfl
@[simp] theorem writeYmm_ymm (i : Fin 16) (v : BitVec 256) : (s.writeYmm i v).ymm = s.ymm.set i v := rfl
@[simp] theorem writeYmm_mxcsr (i : Fin 16) (v : BitVec 256) : (s.writeYmm i v).mxcsr = s.mxcsr := rfl
@[simp] theorem writeYmm_gpr (i : Fin 16) (v : BitVec 256) : (s.writeYmm i v).gpr = s.gpr := rfl
@[simp] theorem writeYmm_rip (i : Fin 16) (v : BitVec 256) : (s.writeYmm i v).rip = s.rip := rfl
@[simp] theorem writeYmm_eflags (i : Fin 16) (v : BitVec 256) : (s.writeYmm i v).eflags = s.eflags := rfl
@[simp] theorem writeYmm_es (i : Fin 16) (v : BitVec 256) : (s.writeYmm i v).es = s.es := rfl
@[simp] theorem writeYmm_cs (i : Fin 16) (v : BitVec 256) : (s.writeYmm i v).cs = s.cs := rfl
@[simp] theorem writeYmm_ss (i : Fin 16) (v : BitVec 256) : (s.writeYmm i v).ss = s.ss := rfl
@[simp] theorem writeYmm_ds (i : Fin 16) (v : BitVec 256) : (s.writeYmm i v).ds = s.ds := rfl
@[simp] theorem writeYmm_fs (i : Fin 16) (v : BitVec 256) : (s.writeYmm i v).fs = s.fs := rfl
@[simp] theorem writeYmm_gs (i : Fin 16) (v : BitVec 256) : (s.writeYmm i v).gs = s.gs := rfl
@[simp] theorem writeYmm_cpl (i : Fin 16) (v : BitVec 256) : (s.writeYmm i v).cpl = s.cpl := rfl
@[simp] theorem writeYmm_cr0 (i : Fin 16) (v : BitVec 256) : (s.writeYmm i v).cr0 = s.cr0 := rfl
@[simp] theorem writeYmm_cr2 (i : Fin 16) (v : BitVec 256) : (s.writeYmm i v).cr2 = s.cr2 := rfl
@[simp] theorem writeYmm_cr4 (i : Fin 16) (v : BitVec 256) : (s.writeYmm i v).cr4 = s.cr4 := rfl
@[simp] theorem writeYmm_xcr0 (i : Fin 16) (v : BitVec 256) : (s.writeYmm i v).xcr0 = s.xcr0 := rfl
@[simp] theorem writeYmm_efer (i : Fin 16) (v : BitVec 256) : (s.writeYmm i v).efer = s.efer := rfl
@[simp] theorem writeYmm_mem (i : Fin 16) (v : BitVec 256) : (s.writeYmm i v).mem = s.mem := rfl
@[simp] theorem writeYmm_text (i : Fin 16) (v : BitVec 256) : (s.writeYmm i v).text = s.text := rfl
@[simp] theorem writeYmm_mode (i : Fin 16) (v : BitVec 256) : (s.writeYmm i v).mode = s.mode := rfl
@[simp] theorem writeYmm_ctx (i : Fin 16) (v : BitVec 256) : (s.writeYmm i v).ctx = s.ctx := rfl
@[simp] theorem writeYmm_codeSize (i : Fin 16) (v : BitVec 256) : (s.writeYmm i v).codeSize = s.codeSize := rfl

/-! ### `writeXmmKeep` -/

@[simp] theorem writeXmmKeep_config (i : Fin 16) (v : BitVec 128) : (s.writeXmmKeep i v).config = s.config := rfl
@[simp] theorem writeXmmKeep_mm (i : Fin 16) (v : BitVec 128) : (s.writeXmmKeep i v).mm = s.mm := rfl
@[simp] theorem writeXmmKeep_x87High (i : Fin 16) (v : BitVec 128) : (s.writeXmmKeep i v).x87High = s.x87High := rfl
@[simp] theorem writeXmmKeep_x87Status (i : Fin 16) (v : BitVec 128) : (s.writeXmmKeep i v).x87Status = s.x87Status := rfl
@[simp] theorem writeXmmKeep_x87Tag (i : Fin 16) (v : BitVec 128) : (s.writeXmmKeep i v).x87Tag = s.x87Tag := rfl
@[simp] theorem writeXmmKeep_x87Dirty (i : Fin 16) (v : BitVec 128) : (s.writeXmmKeep i v).x87Dirty = s.x87Dirty := rfl
@[simp] theorem writeXmmKeep_ymm (i : Fin 16) (v : BitVec 128) : (s.writeXmmKeep i v).ymm = s.ymm.set i (s.readUpper i ++ v) := rfl
@[simp] theorem writeXmmKeep_mxcsr (i : Fin 16) (v : BitVec 128) : (s.writeXmmKeep i v).mxcsr = s.mxcsr := rfl
@[simp] theorem writeXmmKeep_gpr (i : Fin 16) (v : BitVec 128) : (s.writeXmmKeep i v).gpr = s.gpr := rfl
@[simp] theorem writeXmmKeep_rip (i : Fin 16) (v : BitVec 128) : (s.writeXmmKeep i v).rip = s.rip := rfl
@[simp] theorem writeXmmKeep_eflags (i : Fin 16) (v : BitVec 128) : (s.writeXmmKeep i v).eflags = s.eflags := rfl
@[simp] theorem writeXmmKeep_es (i : Fin 16) (v : BitVec 128) : (s.writeXmmKeep i v).es = s.es := rfl
@[simp] theorem writeXmmKeep_cs (i : Fin 16) (v : BitVec 128) : (s.writeXmmKeep i v).cs = s.cs := rfl
@[simp] theorem writeXmmKeep_ss (i : Fin 16) (v : BitVec 128) : (s.writeXmmKeep i v).ss = s.ss := rfl
@[simp] theorem writeXmmKeep_ds (i : Fin 16) (v : BitVec 128) : (s.writeXmmKeep i v).ds = s.ds := rfl
@[simp] theorem writeXmmKeep_fs (i : Fin 16) (v : BitVec 128) : (s.writeXmmKeep i v).fs = s.fs := rfl
@[simp] theorem writeXmmKeep_gs (i : Fin 16) (v : BitVec 128) : (s.writeXmmKeep i v).gs = s.gs := rfl
@[simp] theorem writeXmmKeep_cpl (i : Fin 16) (v : BitVec 128) : (s.writeXmmKeep i v).cpl = s.cpl := rfl
@[simp] theorem writeXmmKeep_cr0 (i : Fin 16) (v : BitVec 128) : (s.writeXmmKeep i v).cr0 = s.cr0 := rfl
@[simp] theorem writeXmmKeep_cr2 (i : Fin 16) (v : BitVec 128) : (s.writeXmmKeep i v).cr2 = s.cr2 := rfl
@[simp] theorem writeXmmKeep_cr4 (i : Fin 16) (v : BitVec 128) : (s.writeXmmKeep i v).cr4 = s.cr4 := rfl
@[simp] theorem writeXmmKeep_xcr0 (i : Fin 16) (v : BitVec 128) : (s.writeXmmKeep i v).xcr0 = s.xcr0 := rfl
@[simp] theorem writeXmmKeep_efer (i : Fin 16) (v : BitVec 128) : (s.writeXmmKeep i v).efer = s.efer := rfl
@[simp] theorem writeXmmKeep_mem (i : Fin 16) (v : BitVec 128) : (s.writeXmmKeep i v).mem = s.mem := rfl
@[simp] theorem writeXmmKeep_text (i : Fin 16) (v : BitVec 128) : (s.writeXmmKeep i v).text = s.text := rfl
@[simp] theorem writeXmmKeep_mode (i : Fin 16) (v : BitVec 128) : (s.writeXmmKeep i v).mode = s.mode := rfl
@[simp] theorem writeXmmKeep_ctx (i : Fin 16) (v : BitVec 128) : (s.writeXmmKeep i v).ctx = s.ctx := rfl
@[simp] theorem writeXmmKeep_codeSize (i : Fin 16) (v : BitVec 128) : (s.writeXmmKeep i v).codeSize = s.codeSize := rfl

/-! ### `writeXmmZero` -/

@[simp] theorem writeXmmZero_config (i : Fin 16) (v : BitVec 128) : (s.writeXmmZero i v).config = s.config := rfl
@[simp] theorem writeXmmZero_mm (i : Fin 16) (v : BitVec 128) : (s.writeXmmZero i v).mm = s.mm := rfl
@[simp] theorem writeXmmZero_x87High (i : Fin 16) (v : BitVec 128) : (s.writeXmmZero i v).x87High = s.x87High := rfl
@[simp] theorem writeXmmZero_x87Status (i : Fin 16) (v : BitVec 128) : (s.writeXmmZero i v).x87Status = s.x87Status := rfl
@[simp] theorem writeXmmZero_x87Tag (i : Fin 16) (v : BitVec 128) : (s.writeXmmZero i v).x87Tag = s.x87Tag := rfl
@[simp] theorem writeXmmZero_x87Dirty (i : Fin 16) (v : BitVec 128) : (s.writeXmmZero i v).x87Dirty = s.x87Dirty := rfl
@[simp] theorem writeXmmZero_ymm (i : Fin 16) (v : BitVec 128) : (s.writeXmmZero i v).ymm = s.ymm.set i (0#128 ++ v) := rfl
@[simp] theorem writeXmmZero_mxcsr (i : Fin 16) (v : BitVec 128) : (s.writeXmmZero i v).mxcsr = s.mxcsr := rfl
@[simp] theorem writeXmmZero_gpr (i : Fin 16) (v : BitVec 128) : (s.writeXmmZero i v).gpr = s.gpr := rfl
@[simp] theorem writeXmmZero_rip (i : Fin 16) (v : BitVec 128) : (s.writeXmmZero i v).rip = s.rip := rfl
@[simp] theorem writeXmmZero_eflags (i : Fin 16) (v : BitVec 128) : (s.writeXmmZero i v).eflags = s.eflags := rfl
@[simp] theorem writeXmmZero_es (i : Fin 16) (v : BitVec 128) : (s.writeXmmZero i v).es = s.es := rfl
@[simp] theorem writeXmmZero_cs (i : Fin 16) (v : BitVec 128) : (s.writeXmmZero i v).cs = s.cs := rfl
@[simp] theorem writeXmmZero_ss (i : Fin 16) (v : BitVec 128) : (s.writeXmmZero i v).ss = s.ss := rfl
@[simp] theorem writeXmmZero_ds (i : Fin 16) (v : BitVec 128) : (s.writeXmmZero i v).ds = s.ds := rfl
@[simp] theorem writeXmmZero_fs (i : Fin 16) (v : BitVec 128) : (s.writeXmmZero i v).fs = s.fs := rfl
@[simp] theorem writeXmmZero_gs (i : Fin 16) (v : BitVec 128) : (s.writeXmmZero i v).gs = s.gs := rfl
@[simp] theorem writeXmmZero_cpl (i : Fin 16) (v : BitVec 128) : (s.writeXmmZero i v).cpl = s.cpl := rfl
@[simp] theorem writeXmmZero_cr0 (i : Fin 16) (v : BitVec 128) : (s.writeXmmZero i v).cr0 = s.cr0 := rfl
@[simp] theorem writeXmmZero_cr2 (i : Fin 16) (v : BitVec 128) : (s.writeXmmZero i v).cr2 = s.cr2 := rfl
@[simp] theorem writeXmmZero_cr4 (i : Fin 16) (v : BitVec 128) : (s.writeXmmZero i v).cr4 = s.cr4 := rfl
@[simp] theorem writeXmmZero_xcr0 (i : Fin 16) (v : BitVec 128) : (s.writeXmmZero i v).xcr0 = s.xcr0 := rfl
@[simp] theorem writeXmmZero_efer (i : Fin 16) (v : BitVec 128) : (s.writeXmmZero i v).efer = s.efer := rfl
@[simp] theorem writeXmmZero_mem (i : Fin 16) (v : BitVec 128) : (s.writeXmmZero i v).mem = s.mem := rfl
@[simp] theorem writeXmmZero_text (i : Fin 16) (v : BitVec 128) : (s.writeXmmZero i v).text = s.text := rfl
@[simp] theorem writeXmmZero_mode (i : Fin 16) (v : BitVec 128) : (s.writeXmmZero i v).mode = s.mode := rfl
@[simp] theorem writeXmmZero_ctx (i : Fin 16) (v : BitVec 128) : (s.writeXmmZero i v).ctx = s.ctx := rfl
@[simp] theorem writeXmmZero_codeSize (i : Fin 16) (v : BitVec 128) : (s.writeXmmZero i v).codeSize = s.codeSize := rfl

/-! ### `x87SideEffects` -/

@[simp] theorem x87SideEffects_config (i : Fin 8) : (s.x87SideEffects i).config = s.config := rfl
@[simp] theorem x87SideEffects_mm (i : Fin 8) : (s.x87SideEffects i).mm = s.mm := rfl
@[simp] theorem x87SideEffects_x87High (i : Fin 8) : (s.x87SideEffects i).x87High = s.x87High.set i 0xFFFF := rfl
@[simp] theorem x87SideEffects_x87Status (i : Fin 8) : (s.x87SideEffects i).x87Status = s.x87Status &&& 0xC7FF := rfl
@[simp] theorem x87SideEffects_x87Tag (i : Fin 8) : (s.x87SideEffects i).x87Tag = 0 := rfl
@[simp] theorem x87SideEffects_x87Dirty (i : Fin 8) : (s.x87SideEffects i).x87Dirty = true := rfl
@[simp] theorem x87SideEffects_ymm (i : Fin 8) : (s.x87SideEffects i).ymm = s.ymm := rfl
@[simp] theorem x87SideEffects_mxcsr (i : Fin 8) : (s.x87SideEffects i).mxcsr = s.mxcsr := rfl
@[simp] theorem x87SideEffects_gpr (i : Fin 8) : (s.x87SideEffects i).gpr = s.gpr := rfl
@[simp] theorem x87SideEffects_rip (i : Fin 8) : (s.x87SideEffects i).rip = s.rip := rfl
@[simp] theorem x87SideEffects_eflags (i : Fin 8) : (s.x87SideEffects i).eflags = s.eflags := rfl
@[simp] theorem x87SideEffects_es (i : Fin 8) : (s.x87SideEffects i).es = s.es := rfl
@[simp] theorem x87SideEffects_cs (i : Fin 8) : (s.x87SideEffects i).cs = s.cs := rfl
@[simp] theorem x87SideEffects_ss (i : Fin 8) : (s.x87SideEffects i).ss = s.ss := rfl
@[simp] theorem x87SideEffects_ds (i : Fin 8) : (s.x87SideEffects i).ds = s.ds := rfl
@[simp] theorem x87SideEffects_fs (i : Fin 8) : (s.x87SideEffects i).fs = s.fs := rfl
@[simp] theorem x87SideEffects_gs (i : Fin 8) : (s.x87SideEffects i).gs = s.gs := rfl
@[simp] theorem x87SideEffects_cpl (i : Fin 8) : (s.x87SideEffects i).cpl = s.cpl := rfl
@[simp] theorem x87SideEffects_cr0 (i : Fin 8) : (s.x87SideEffects i).cr0 = s.cr0 := rfl
@[simp] theorem x87SideEffects_cr2 (i : Fin 8) : (s.x87SideEffects i).cr2 = s.cr2 := rfl
@[simp] theorem x87SideEffects_cr4 (i : Fin 8) : (s.x87SideEffects i).cr4 = s.cr4 := rfl
@[simp] theorem x87SideEffects_xcr0 (i : Fin 8) : (s.x87SideEffects i).xcr0 = s.xcr0 := rfl
@[simp] theorem x87SideEffects_efer (i : Fin 8) : (s.x87SideEffects i).efer = s.efer := rfl
@[simp] theorem x87SideEffects_mem (i : Fin 8) : (s.x87SideEffects i).mem = s.mem := rfl
@[simp] theorem x87SideEffects_text (i : Fin 8) : (s.x87SideEffects i).text = s.text := rfl
@[simp] theorem x87SideEffects_mode (i : Fin 8) : (s.x87SideEffects i).mode = s.mode := rfl
@[simp] theorem x87SideEffects_ctx (i : Fin 8) : (s.x87SideEffects i).ctx = s.ctx := rfl
@[simp] theorem x87SideEffects_codeSize (i : Fin 8) : (s.x87SideEffects i).codeSize = s.codeSize := rfl

/-! ### `advance` -/

@[simp] theorem advance_config (n : Nat) : (s.advance n).config = s.config := rfl
@[simp] theorem advance_mm (n : Nat) : (s.advance n).mm = s.mm := rfl
@[simp] theorem advance_x87High (n : Nat) : (s.advance n).x87High = s.x87High := rfl
@[simp] theorem advance_x87Status (n : Nat) : (s.advance n).x87Status = s.x87Status := rfl
@[simp] theorem advance_x87Tag (n : Nat) : (s.advance n).x87Tag = s.x87Tag := rfl
@[simp] theorem advance_x87Dirty (n : Nat) : (s.advance n).x87Dirty = s.x87Dirty := rfl
@[simp] theorem advance_ymm (n : Nat) : (s.advance n).ymm = s.ymm := rfl
@[simp] theorem advance_mxcsr (n : Nat) : (s.advance n).mxcsr = s.mxcsr := rfl
@[simp] theorem advance_gpr (n : Nat) : (s.advance n).gpr = s.gpr := rfl
@[simp] theorem advance_rip (n : Nat) : (s.advance n).rip = truncTo s.codeSize (s.rip + BitVec.ofNat 64 n) := rfl
@[simp] theorem advance_eflags (n : Nat) : (s.advance n).eflags = s.eflags := rfl
@[simp] theorem advance_es (n : Nat) : (s.advance n).es = s.es := rfl
@[simp] theorem advance_cs (n : Nat) : (s.advance n).cs = s.cs := rfl
@[simp] theorem advance_ss (n : Nat) : (s.advance n).ss = s.ss := rfl
@[simp] theorem advance_ds (n : Nat) : (s.advance n).ds = s.ds := rfl
@[simp] theorem advance_fs (n : Nat) : (s.advance n).fs = s.fs := rfl
@[simp] theorem advance_gs (n : Nat) : (s.advance n).gs = s.gs := rfl
@[simp] theorem advance_cpl (n : Nat) : (s.advance n).cpl = s.cpl := rfl
@[simp] theorem advance_cr0 (n : Nat) : (s.advance n).cr0 = s.cr0 := rfl
@[simp] theorem advance_cr2 (n : Nat) : (s.advance n).cr2 = s.cr2 := rfl
@[simp] theorem advance_cr4 (n : Nat) : (s.advance n).cr4 = s.cr4 := rfl
@[simp] theorem advance_xcr0 (n : Nat) : (s.advance n).xcr0 = s.xcr0 := rfl
@[simp] theorem advance_efer (n : Nat) : (s.advance n).efer = s.efer := rfl
@[simp] theorem advance_mem (n : Nat) : (s.advance n).mem = s.mem := rfl
@[simp] theorem advance_text (n : Nat) : (s.advance n).text = s.text := rfl
@[simp] theorem advance_mode (n : Nat) : (s.advance n).mode = s.mode := rfl
@[simp] theorem advance_ctx (n : Nat) : (s.advance n).ctx = s.ctx := rfl
@[simp] theorem advance_codeSize (n : Nat) : (s.advance n).codeSize = s.codeSize := rfl

end Sys2Proof.Machine
end

