-- ==== Sys2Proof/Laws/Ops.lean ====
section
/-! SUPPORT. One lemma for each shared operation over registers and memory, saying once what it can do. -/

namespace Sys2Proof.Machine

/-! ## Register files -/

theorem readMm_writeMm_same (s : State) (i : Fin 8) (v : BitVec 64) : (s.writeMm i v).readMm i = v := by
  simp [State.readMm]

theorem readMm_writeMm_other (s : State) (i j : Fin 8) (v : BitVec 64) (h : j ≠ i) :
    (s.writeMm i v).readMm j = s.readMm j := by
  have h' : i.val ≠ j.val := fun e => h (Fin.ext e.symm)
  simp [State.readMm, h']

theorem readYmm_writeYmm_same (s : State) (i : Fin 16) (v : BitVec 256) : (s.writeYmm i v).readYmm i = v := by
  simp [State.readYmm]

theorem readYmm_writeYmm_other (s : State) (i j : Fin 16) (v : BitVec 256) (h : j ≠ i) :
    (s.writeYmm i v).readYmm j = s.readYmm j := by
  have h' : i.val ≠ j.val := fun e => h (Fin.ext e.symm)
  simp [State.readYmm, h']

/-- The low half of a joined register. -/
theorem low_append (u v : BitVec 128) : (u ++ v).extractLsb 127 0 = v := by
  apply BitVec.eq_of_getLsbD_eq
  intro i hi
  have hi' : i < 128 := hi
  have h := BitVec.getLsbD_append (x := u) (y := v) (i := i)
  simp_all

/-- The high half of a joined register. -/
theorem high_append (u v : BitVec 128) : (u ++ v).extractLsb 255 128 = u := by
  apply BitVec.eq_of_getLsbD_eq
  intro i hi
  have hi' : i < 128 := hi
  have h := BitVec.getLsbD_append (x := u) (y := v) (i := 128 + i)
  simp_all

/-- The legacy SSE2 write: the low half is the value, the high half is kept (spec/10_state.md R23). -/
theorem writeXmmKeep_spec (s : State) (i : Fin 16) (v : BitVec 128) :
    (s.writeXmmKeep i v).readXmm i = v ∧ (s.writeXmmKeep i v).readUpper i = s.readUpper i ∧
      ∀ j, j ≠ i → (s.writeXmmKeep i v).readYmm j = s.readYmm j := by
  refine ⟨?_, ?_, fun j h => readYmm_writeYmm_other s i j _ h⟩
  · rw [State.readXmm, State.writeXmmKeep, readYmm_writeYmm_same]; exact low_append _ _
  · rw [State.readUpper, State.writeXmmKeep, readYmm_writeYmm_same]; exact high_append _ _

/-- The VEX.128 write: the low half is the value, the high half is zero (spec/10_state.md R23). -/
theorem writeXmmZero_spec (s : State) (i : Fin 16) (v : BitVec 128) :
    (s.writeXmmZero i v).readXmm i = v ∧ (s.writeXmmZero i v).readUpper i = 0 ∧
      ∀ j, j ≠ i → (s.writeXmmZero i v).readYmm j = s.readYmm j := by
  refine ⟨?_, ?_, fun j h => readYmm_writeYmm_other s i j _ h⟩
  · rw [State.readXmm, State.writeXmmZero, readYmm_writeYmm_same]; exact low_append _ _
  · rw [State.readUpper, State.writeXmmZero, readYmm_writeYmm_same]; exact high_append _ _

/-! ## Widths -/

theorem truncTo_idem (a : AddrSize) (v : Word) : truncTo a (truncTo a v) = truncTo a v := by
  cases a <;> simp [truncTo, BitVec.setWidth_setWidth_of_le]

/-! ## Exceptions -/

/-- Taking an exception saves the instruction pointer and names the exception. -/
theorem takeException_fault (x : Exception) (s : State) :
    ∃ f, takeException x s = .fault f ∧ f.savedPc = s.rip ∧ f.exception = x := by
  cases x <;> exact ⟨_, rfl, rfl, rfl⟩

/-- A stop is never a next state; a fault it gives saves the instruction pointer. -/
theorem stop_outcome (s : State) (x : Stop) :
    (∃ f, x.outcome s = .fault f ∧ f.savedPc = s.rip) ∨ ∃ r, x.outcome s = .refused r := by
  cases x with
  | raise x => obtain ⟨f, h, hp, _⟩ := takeException_fault x s; exact .inl ⟨f, h, hp⟩
  | refuse r => exact .inr ⟨r, rfl⟩

/-! ## The byte store -/

theorem cellAt_putCell (m : Memory) (k a : Nat) (v : Byte) :
    cellAt (putCell m k v) a = if a = k then some v else cellAt m a := by
  induction m with
  | nil => simp [putCell, cellAt]
  | cons c r ih =>
    obtain ⟨b, w⟩ := c
    unfold putCell
    split
    · simp [cellAt]
    · split
      · next h => subst h; by_cases ha : a = k <;> simp [cellAt, ha]
      · next h1 h2 =>
        by_cases hb : a = b
        · subst hb; simp [cellAt, Ne.symm h2]
        · simp [cellAt, hb, ih]

/-- Nothing is listed below the lower bound of a rising store. -/
theorem cellAt_below {lo : Nat} {m : Memory} (h : risingFrom lo m = true) {a : Nat} (ha : a < lo) :
    cellAt m a = none := by
  induction m generalizing lo with
  | nil => rfl
  | cons c r ih =>
    obtain ⟨b, w⟩ := c
    simp only [risingFrom, Bool.and_eq_true, decide_eq_true_eq] at h
    have : a ≠ b := by omega
    simp only [cellAt, this, if_false]
    exact ih h.2 (by omega)

theorem cellAt_dropCell {lo : Nat} {m : Memory} (h : risingFrom lo m = true) (k a : Nat) :
    cellAt (dropCell m k) a = if a = k then none else cellAt m a := by
  induction m generalizing lo with
  | nil => simp [dropCell, cellAt]
  | cons c r ih =>
    obtain ⟨b, w⟩ := c
    simp only [risingFrom, Bool.and_eq_true, decide_eq_true_eq] at h
    unfold dropCell
    split
    · next hk =>
      subst hk
      by_cases ha : a = k
      · subst ha; simp [cellAt_below h.2 (Nat.lt_succ_self a)]
      · simp [cellAt, ha]
    · next hk =>
      by_cases ha : a = b
      · subst ha; simp [cellAt, Ne.symm hk]
      · simp [cellAt, ha, ih h.2]

theorem risingFrom_mono {lo lo' : Nat} {m : Memory} (h : risingFrom lo m = true) (hl : lo' ≤ lo) :
    risingFrom lo' m = true := by
  cases m with
  | nil => rfl
  | cons c r =>
    obtain ⟨b, w⟩ := c
    simp only [risingFrom, Bool.and_eq_true, decide_eq_true_eq] at h ⊢
    exact ⟨by omega, h.2⟩

theorem risingFrom_putCell {lo : Nat} {m : Memory} (h : risingFrom lo m = true) (k : Nat) (v : Byte)
    (hk : lo ≤ k) : risingFrom lo (putCell m k v) = true := by
  induction m generalizing lo with
  | nil => simp [putCell, risingFrom, hk]
  | cons c r ih =>
    obtain ⟨b, w⟩ := c
    simp only [risingFrom, Bool.and_eq_true, decide_eq_true_eq] at h
    unfold putCell
    split
    · next hlt => simp [risingFrom, hk, h.2]; omega
    · split
      · next heq => subst heq; simp [risingFrom, h.1, h.2]
      · next h1 h2 =>
        simp only [risingFrom, Bool.and_eq_true, decide_eq_true_eq]
        exact ⟨h.1, ih h.2 (by omega)⟩

theorem risingFrom_dropCell {lo : Nat} {m : Memory} (h : risingFrom lo m = true) (k : Nat) :
    risingFrom lo (dropCell m k) = true := by
  induction m generalizing lo with
  | nil => rfl
  | cons c r ih =>
    obtain ⟨b, w⟩ := c
    simp only [risingFrom, Bool.and_eq_true, decide_eq_true_eq] at h
    unfold dropCell
    split
    · exact risingFrom_mono h.2 (by omega)
    · simp only [risingFrom, Bool.and_eq_true, decide_eq_true_eq]; exact ⟨h.1, ih h.2⟩

theorem mem_putCell {m : Memory} {k : Nat} {v : Byte} {c : Host.Cell} (h : c ∈ putCell m k v) :
    c = (k, v) ∨ c ∈ m := by
  induction m with
  | nil => simpa [putCell] using h
  | cons d r ih =>
    obtain ⟨b, w⟩ := d
    unfold putCell at h
    split at h
    · simpa using h
    · split at h
      · rcases List.mem_cons.1 h with h | h
        · exact .inl h
        · exact .inr (List.mem_cons_of_mem _ h)
      · rcases List.mem_cons.1 h with h | h
        · exact .inr (by simp [h])
        · rcases ih h with h | h
          · exact .inl h
          · exact .inr (List.mem_cons_of_mem _ h)

theorem mem_dropCell {m : Memory} {k : Nat} {c : Host.Cell} (h : c ∈ dropCell m k) : c ∈ m := by
  induction m with
  | nil => simp [dropCell] at h
  | cons d r ih =>
    obtain ⟨b, w⟩ := d
    unfold dropCell at h
    split at h
    · exact List.mem_cons_of_mem _ h
    · rcases List.mem_cons.1 h with h | h
      · simp [h]
      · exact List.mem_cons_of_mem _ (ih h)

/-- A write keeps the canonical form. -/
theorem writeByte_wf {m : Memory} (h : Memory.wf m = true) (a : Nat) (v : Byte) :
    Memory.wf (writeByte m a v) = true := by
  simp only [Memory.wf, Bool.and_eq_true, List.all_eq_true] at h ⊢
  unfold writeByte
  split
  · exact ⟨risingFrom_dropCell h.1 a, fun c hc => h.2 c (mem_dropCell hc)⟩
  · next hv =>
    refine ⟨risingFrom_putCell h.1 a v (Nat.zero_le a), fun c hc => ?_⟩
    rcases mem_putCell hc with rfl | hc
    · simpa using hv
    · exact h.2 c hc

/-- Writes of many bytes keep the canonical form. -/
theorem writeBytes_wf {m : Memory} (h : Memory.wf m = true) (a : Nat) (bs : List Byte) :
    Memory.wf (writeBytes m a bs) = true := by
  induction bs generalizing m a with
  | nil => exact h
  | cons b r ih => exact ih (writeByte_wf h a b) (a + 1)

/-- A read after a write: the value written there, the old value elsewhere. -/
theorem byteAt_writeByte {m : Memory} (h : Memory.wf m = true) (a k : Nat) (v : Byte) :
    byteAt (writeByte m a v) k = if k = a then v else byteAt m k := by
  simp only [Memory.wf, Bool.and_eq_true] at h
  unfold writeByte byteAt
  split
  · next hv => rw [cellAt_dropCell h.1]; by_cases hk : k = a <;> simp [hk, hv]
  · rw [cellAt_putCell]; by_cases hk : k = a <;> simp [hk]

/-- Placing program text keeps its canonical form. -/
theorem placeText_wf (s : State) {m : Memory} (h : textWf m = true) (k : Nat) (bs : List Byte) :
    textWf (s.placeText m k bs) = true := by
  induction bs generalizing m k with
  | nil => exact h
  | cons b r ih => exact ih (risingFrom_putCell h _ b (Nat.zero_le _)) (k + 1)

/-- The memory and the program text of the reset state are canonical. -/
theorem reset_wf : Memory.wf State.reset.mem = true ∧ textWf State.reset.text = true := ⟨rfl, rfl⟩

/-! ## Translation and the read primitive -/

/-- Outside 64-bit mode an operand that passes the segment check lies within the segment limit
(spec/20_memory.md R50). -/
theorem segOk_within (s : State) (g : Seg) (ea : Word) (n : Nat) (hm : s.mode ≠ .long64)
    (h : s.segOk g ea n = true) : (s.segReg g).within ea n = true := by
  unfold State.segOk SegReg.allows at h
  cases hs : s.mode <;> simp_all

/-- What a segment override leaves: the flags as they were, and the segment of spec/30_encoding.md R63. -/
theorem noteSeg_spec (c : Ctx) (p : Prefixes) (g : Seg) :
    p.noteSeg c g =
      { p with seg := if c.long && (p.seg = some .fs || p.seg = some .gs) then p.seg else some g } := by
  unfold Prefixes.noteSeg
  split <;> rfl

/-- A page walk answers the address exactly when the page may be read. -/
theorem pageWalk_ok (s : State) (a : Word) (h : s.pageOk a = true) : s.pageWalk a = .ok (s.physOf a) := by
  unfold State.pageOk at h
  unfold State.pageWalk State.physOf
  cases hp : s.pageMap with
  | none => rfl
  | some pages =>
    cases he : findPage pages (a.toNat / 4096) with
    | none => simp [hp, he] at h
    | some e =>
      simp only [hp, he, Bool.and_eq_true, Bool.not_eq_true', Bool.or_eq_true] at h
      rcases h.2 with h2 | h2 <;> simp [he, h.1, h2]

/-- A page walk of a page that may not be read is a page fault at that address. -/
theorem pageWalk_error (s : State) (a : Word) (h : s.pageOk a = false) :
    ∃ code, s.pageWalk a = .error (.pf code a) := by
  unfold State.pageOk at h
  unfold State.pageWalk
  cases hp : s.pageMap with
  | none => simp [hp] at h
  | some pages =>
    cases he : findPage pages (a.toNat / 4096) with
    | none => exact ⟨_, by simp only [he]; rfl⟩
    | some e =>
      simp only [hp, he] at h
      cases hr : e.reserved with
      | true => exact ⟨_, by simp only [he, hr]; rfl⟩
      | false =>
        cases hu : s.user && !e.user with
        | true => exact ⟨_, by simp only [he, hr, hu]; rfl⟩
        | false => cases hs : s.user <;> cases hv : e.user <;> simp_all

theorem pageWalks_ok (s : State) (as : List Word) (h : as.all s.pageOk = true) :
    s.pageWalks as = .ok (as.map s.physOf) := by
  induction as with
  | nil => rfl
  | cons a r ih =>
    simp only [List.all_cons, Bool.and_eq_true] at h
    simp [State.pageWalks, pageWalk_ok s a h.1, ih h.2]

theorem pageWalks_error (s : State) (as : List Word) (h : as.all s.pageOk = false) :
    ∃ code a, a ∈ as ∧ s.pageWalks as = .error (.pf code a) := by
  induction as with
  | nil => cases h
  | cons a r ih =>
    cases ha : s.pageOk a with
    | false =>
      obtain ⟨code, hc⟩ := pageWalk_error s a ha
      exact ⟨code, a, by simp, by simp [State.pageWalks, hc]⟩
    | true =>
      have hr : r.all s.pageOk = false := by simpa [ha] using h
      obtain ⟨code, b, hb, hc⟩ := ih hr
      exact ⟨code, b, by simp [hb], by simp [State.pageWalks, pageWalk_ok s a ha, hc]⟩

/-- The page walk answers one address for each byte. -/
theorem pageWalks_length (s : State) (as : List Word) (ps : List Nat) (h : s.pageWalks as = .ok ps) :
    ps.length = as.length := by
  cases hp : as.all s.pageOk with
  | true =>
    rw [pageWalks_ok s as hp] at h
    cases h
    simp
  | false =>
    obtain ⟨code, a, _, he⟩ := pageWalks_error s as hp
    rw [he] at h
    cases h

/-- What the model's own translation does, once: `#SS` or `#GP`, a page fault at a byte of the operand, or the
address of each byte. -/
theorem walk_cases (s : State) (g : Seg) (ea : Word) (n : Nat) :
    (s.segOk g ea n = false ∧ s.walk g ea n = .error (s.segFault g)) ∨
    (s.segOk g ea n = true ∧ (s.linearBytes g ea n).all s.pageOk = false ∧
      ∃ code a, a ∈ s.linearBytes g ea n ∧ s.walk g ea n = .error (.pf code a)) ∨
    (s.segOk g ea n = true ∧ (s.linearBytes g ea n).all s.pageOk = true ∧
      s.walk g ea n = .ok ((s.linearBytes g ea n).map s.physOf)) := by
  unfold State.walk
  cases hs : s.segOk g ea n with
  | false => simp
  | true =>
    cases hp : (s.linearBytes g ea n).all s.pageOk with
    | false => exact .inr (.inl ⟨rfl, rfl, by simpa using pageWalks_error s _ hp⟩)
    | true => exact .inr (.inr ⟨rfl, rfl, by simpa using pageWalks_ok s _ hp⟩)

theorem answerOutcome_cases (n : Nat) (a : Answer) (x : Except Exception (List Nat))
    (h : answerOutcome n a = some x) :
    (∃ as, x = .ok as ∧ as.length = n) ∨ x = .error .ss ∨ x = .error .gp ∨ ∃ code b, x = .error (.pf code b) := by
  cases a with
  | addresses as =>
    simp only [answerOutcome] at h
    split at h
    · next hl => cases h; exact .inl ⟨as, rfl, hl⟩
    · cases h
  | ss => cases h; simp
  | gp => cases h; simp
  | pf code b => cases h; simp

theorem findAnswer_cases (g : Seg) (ea : Word) (n : Nat) (rows : List OracleRow) (x : Except Exception (List Nat))
    (h : findAnswer g ea n rows = some x) :
    (∃ as, x = .ok as ∧ as.length = n) ∨ x = .error .ss ∨ x = .error .gp ∨ ∃ code b, x = .error (.pf code b) := by
  induction rows with
  | nil => cases h
  | cons e r ih =>
    simp only [findAnswer] at h
    split at h
    · split at h
      · next y hy => cases h; exact answerOutcome_cases n e.answer x hy
      · exact ih h
    · exact ih h

/-- What `Translate` does, whatever the oracle holds: one address for each byte, or `#SS`, `#GP` or `#PF`. -/
theorem translate_cases (s : State) (g : Seg) (ea : Word) (n : Nat) :
    (∃ as, s.translate g ea n = .ok as ∧ as.length = n) ∨ s.translate g ea n = .error .ss ∨
      s.translate g ea n = .error .gp ∨ ∃ code b, s.translate g ea n = .error (.pf code b) := by
  unfold State.translate
  cases ho : s.oracle g ea n with
  | some x => exact findAnswer_cases g ea n _ x ho
  | none =>
    rcases walk_cases s g ea n with ⟨_, h⟩ | ⟨_, _, code, a, _, h⟩ | ⟨_, _, h⟩
    · have : s.segFault g = .ss ∨ s.segFault g = .gp := by unfold State.segFault; split <;> simp
      rcases this with hf | hf <;> simp [h, hf]
    · simp [h]
    · simp [h, State.linearBytes]

/-- A row of a function's table gives the function's answer, whichever rows stand before it. -/
theorem findAnswer_table (T : Seg → Word → Nat → Answer)
    (hT : ∀ g ea n as, T g ea n = .addresses as → as.length = n) (keys : List (Seg × Word × Nat))
    (g : Seg) (ea : Word) (n : Nat) (h : (g, ea, n) ∈ keys) :
    findAnswer g ea n (keys.map fun k => ⟨k.1, k.2.1, k.2.2, T k.1 k.2.1 k.2.2⟩) = answerOutcome n (T g ea n) := by
  have hs : ∃ x, answerOutcome n (T g ea n) = some x := by
    cases ht : T g ea n with
    | addresses as => exact ⟨_, by simp [answerOutcome, hT g ea n as ht]; rfl⟩
    | ss => exact ⟨_, rfl⟩
    | gp => exact ⟨_, rfl⟩
    | pf code a => exact ⟨_, rfl⟩
  obtain ⟨x, hx⟩ := hs
  induction keys with
  | nil => cases h
  | cons k r ih =>
    obtain ⟨g', ea', n'⟩ := k
    simp only [List.map_cons, findAnswer]
    by_cases hk : g' = g ∧ ea' = ea ∧ n' = n
    · obtain ⟨rfl, rfl, rfl⟩ := hk
      simp [hx]
    · have hr : (g, ea, n) ∈ r := by
        rcases List.mem_cons.1 h with he | he
        · cases he; exact absurd ⟨rfl, rfl, rfl⟩ hk
        · exact he
      rw [if_neg (by simpa [and_assoc] using hk)]
      exact ih hr

/-- Every oracle is a value of the parameter: for every function on operands that answers one address for each byte or
a fault, there are rows with which `Translate` is that function on every segment, effective address and operand
size of the group (spec/00_scope.md R7, spec/20_memory.md R41). -/
theorem every_oracle (T : Seg → Word → Nat → Answer)
    (hT : ∀ g ea n as, T g ea n = .addresses as → as.length = n) :
    ∃ rows, ∀ s : State, s.config.oracle = rows → ∀ (g : Seg) (ea : Word) (n : Nat),
      n = 4 ∨ n = 16 ∨ n = 32 → answerOutcome n (T g ea n) = some (s.translate g ea n) := by
  have hall : ∃ keys : List (Seg × Word × Nat), ∀ (g : Seg) (ea : Word) (n : Nat),
      n = 4 ∨ n = 16 ∨ n = 32 → (g, ea, n) ∈ keys := by
    refine ⟨[Seg.es, .cs, .ss, .ds, .fs, .gs] ×ˢ
      (((List.range (2 ^ 64)).map (BitVec.ofNat 64)) ×ˢ [4, 16, 32]), fun g ea n hn => ?_⟩
    refine List.mem_product.2 ⟨by cases g <;> simp, List.mem_product.2 ⟨?_, by simpa using hn⟩⟩
    exact List.mem_map.2 ⟨ea.toNat, List.mem_range.2 ea.isLt, BitVec.eq_of_toNat_eq (by simp)⟩
  obtain ⟨keys, hk⟩ := hall
  refine ⟨keys.map fun k => ⟨k.1, k.2.1, k.2.2, T k.1 k.2.1 k.2.2⟩, fun s hs g ea n hn => ?_⟩
  have ha := findAnswer_table T hT keys g ea n (hk g ea n hn)
  have ho : s.oracle g ea n = answerOutcome n (T g ea n) := by rw [← ha, State.oracle, hs]
  unfold State.translate
  cases hx : answerOutcome n (T g ea n) with
  | some x => rw [ho, hx]
  | none =>
    cases ht : T g ea n with
    | addresses as => simp [ht, answerOutcome, hT g ea n as ht] at hx
    | ss => simp [ht, answerOutcome] at hx
    | gp => simp [ht, answerOutcome] at hx
    | pf code a => simp [ht, answerOutcome] at hx

/-- Where the oracle has no row for the operand, `Translate` is the segment check and the page walk. -/
theorem translate_walk (s : State) (g : Seg) (ea : Word) (n : Nat) (h : s.oracle g ea n = none) :
    s.translate g ea n = s.walk g ea n := by
  simp [State.translate, h]

/-- What the read primitive does, once: the operand's bytes when every check passes, and otherwise `#GP`, `#SS`,
`#PF`, `#AC`, or the refusal (spec/20_memory.md R58). -/
theorem memRead_cases (s : State) (c : OpClass) (g : Seg) (ea : Word) (n : Nat) :
    (s.operandOk c g ea n = true ∧
      s.memRead c g ea n = .ok ((s.operandBytes g ea n).take (s.fetchedBytes n))) ∨
    (s.operandOk c g ea n = false ∧
      (s.memRead c g ea n = .error (.raise .gp) ∨ s.memRead c g ea n = .error (.raise .ss) ∨
       (∃ code a, s.memRead c g ea n = .error (.raise (.pf code a))) ∨
       (s.alignTrap c g ea = true ∧ s.memRead c g ea n = .error (.raise .ac)) ∨
       s.memRead c g ea n = .error (.refuse .notOrdinaryMemory))) := by
  unfold State.memRead State.operandOk State.operandBytes
  cases hm : s.misaligned c g ea n with
  | true => simp
  | false =>
    rcases translate_cases s g ea n with ⟨as, h, _⟩ | h | h | ⟨code, b, h⟩
    · cases ht : s.alignTrap c g ea <;> cases ho : as.all (ordinaryAt s.config.ordinary) <;>
        simp [h, ho, List.map_take]
    all_goals simp [h]

/-- The read primitive of an operand that passes every check. -/
theorem memRead_ok (s : State) (c : OpClass) (g : Seg) (ea : Word) (n : Nat) (h : s.operandOk c g ea n = true) :
    s.memRead c g ea n = .ok ((s.operandBytes g ea n).take (s.fetchedBytes n)) := by
  rcases memRead_cases s c g ea n with h' | h'
  · exact h'.2
  · rw [h] at h'; exact absurd h'.1 (by simp)

/-- An operand that passes every check has `n` bytes. -/
theorem operandBytes_length (s : State) (c : OpClass) (g : Seg) (ea : Word) (n : Nat)
    (h : s.operandOk c g ea n = true) : (s.operandBytes g ea n).length = n := by
  unfold State.operandOk at h
  unfold State.operandBytes
  rcases translate_cases s g ea n with ⟨as, ht, hl⟩ | ht | ht | ⟨code, b, ht⟩
  · simp [ht, hl]
  all_goals simp [ht] at h

end Sys2Proof.Machine
end

