-- ==== Sys2Proof/Laws/Forms.lean ====
section
/-! SUPPORT. One lemma for each common execution (spec/41 to 44, rules R120, R130, R140, R150) and for each
source operand, saying once what it can do. -/

namespace Sys2Proof.Machine

/-! ## Source operands -/

/-- The bytes below `k` are the value modulo `256 ^ k`. -/
theorem leNat_take (k : Nat) (bs : List Byte) : leNat (bs.take k) = leNat bs % 256 ^ k := by
  induction k generalizing bs with
  | zero => simp [leNat, Nat.mod_one]
  | succ k ih =>
    cases bs with
    | nil => simp [leNat]
    | cons b r =>
      have hb : b.toNat < 256 := b.isLt
      simp only [List.take_succ_cons, leNat, ih, Nat.pow_succ', Nat.mod_mul]
      have h1 : (b.toNat + 256 * leNat r) % 256 = b.toNat := by omega
      have h2 : (b.toNat + 256 * leNat r) / 256 = leNat r := by omega
      rw [h1, h2]

theorem mmSource_ok (s : State) (len : Nat) (src : RegMem 8) (h : s.mmSrcOk len src = true) :
    s.mmSource len src = .ok (s.mmValue len src) := by
  cases src with
  | reg r => rfl
  | mem m =>
    have hr := memRead_ok s .mmx m.seg (s.effAddr len m) 4 h
    have hl := operandBytes_length s .mmx m.seg (s.effAddr len m) 4 h
    have hf : s.fetchedBytes 4 = 4 := by simp [State.fetchedBytes]
    rw [hf, List.take_of_length_le (by omega)] at hr
    simp [State.mmSource, State.readMem, hr, State.mmValue]

theorem ymmSource_ok (s : State) (len : Nat) (src : RegMem 16) (h : s.vecSrcOk .vex len 32 src = true) :
    s.ymmSource len src = .ok (s.ymmValue len src) := by
  cases src with
  | reg r => rfl
  | mem m =>
    have hr := memRead_ok s .vex m.seg (s.effAddr len m) 32 h
    have hl := operandBytes_length s .vex m.seg (s.effAddr len m) 32 h
    have hf : s.fetchedBytes 32 = 32 := by simp [State.fetchedBytes]
    rw [hf, List.take_of_length_le (by omega)] at hr
    simp [State.ymmSource, State.readMem, hr, State.ymmValue]

/-- A readable 128-bit source gives a value whose low 64 bits are the operand's, whatever `FETCH64`
(spec/20_memory.md R46). -/
theorem xmmSource_ok (s : State) (c : OpClass) (len : Nat) (src : RegMem 16)
    (h : s.vecSrcOk c len 16 src = true) :
    ∃ v, s.xmmSource c len src = .ok v ∧
      v.extractLsb' 0 64 = (s.xmmValue len src).extractLsb' 0 64 := by
  cases src with
  | reg r => exact ⟨_, rfl, rfl⟩
  | mem m =>
    have hr := memRead_ok s c m.seg (s.effAddr len m) 16 h
    refine ⟨BitVec.ofNat 128 (leNat ((s.operandBytes m.seg (s.effAddr len m) 16).take (s.fetchedBytes 16))),
      by simp [State.xmmSource, State.readMem, hr], ?_⟩
    apply BitVec.eq_of_toNat_eq
    have hl := operandBytes_length s c m.seg (s.effAddr len m) 16 h
    have h8 : s.fetchedBytes 16 = 8 ∨ s.fetchedBytes 16 = 16 := by
      unfold State.fetchedBytes; split <;> simp
    rcases h8 with h8 | h8
    · simp only [h8, leNat_take, State.xmmValue, BitVec.extractLsb'_toNat, BitVec.toNat_ofNat,
        Nat.shiftRight_zero]
      omega
    · rw [h8, List.take_of_length_le (by omega)]; rfl

/-! ## The common executions -/

/-- What an MMX form does, once (R120). -/
theorem mmxForm_cases (f : BitVec 64 → BitVec 64 → BitVec 64) (e : Enc) (d : Fin 8) (src : RegMem 8)
    (s : State) :
    (s.mmxUd e = true ∧ mmxForm f e d src s = takeException .ud s) ∨
    (s.mmxUd e = false ∧ s.ts = true ∧ mmxForm f e d src s = takeException .nm s) ∨
    (s.mmxUd e = false ∧ s.ts = false ∧ s.x87Pending = true ∧ mmxForm f e d src s = takeException .mf s) ∨
    (s.mmxUd e = false ∧ s.ts = false ∧ s.x87Pending = false ∧
      ((∃ x, s.mmSource e.len src = .error x ∧ mmxForm f e d src s = x.outcome s) ∨
       ∃ v, s.mmSource e.len src = .ok v ∧
        mmxForm f e d src s = .next (s.mmxResult e d (f (s.readMm d) v)))) := by
  unfold mmxForm
  cases hu : s.mmxUd e <;> cases ht : s.ts <;> cases hp : s.x87Pending <;>
    cases hs : s.mmSource e.len src <;> simp

/-- What a legacy SSE2 form does, once (R130). -/
theorem sseForm_cases (f : BitVec 128 → BitVec 128 → BitVec 128) (e : Enc) (d : Fin 16) (src : RegMem 16)
    (s : State) :
    (s.sseUd e = true ∧ sseForm f e d src s = takeException .ud s) ∨
    (s.sseUd e = false ∧ s.ts = true ∧ sseForm f e d src s = takeException .nm s) ∨
    (s.sseUd e = false ∧ s.ts = false ∧
      ((∃ x, s.xmmSource .sse e.len src = .error x ∧ sseForm f e d src s = x.outcome s) ∨
       ∃ v, s.xmmSource .sse e.len src = .ok v ∧
        sseForm f e d src s = .next (s.sseResult e d (f (s.readXmm d) v)))) := by
  unfold sseForm
  cases hu : s.sseUd e <;> cases ht : s.ts <;> cases hs : s.xmmSource .sse e.len src <;> simp

/-- What a VEX.128 form does, once (R140). -/
theorem vex128Form_cases (f : BitVec 128 → BitVec 128 → BitVec 128) (e : Enc) (d a : Fin 16)
    (src : RegMem 16) (s : State) :
    (s.vex128Ud e = true ∧ vex128Form f e d a src s = takeException .ud s) ∨
    (s.vex128Ud e = false ∧ s.ts = true ∧ vex128Form f e d a src s = takeException .nm s) ∨
    (s.vex128Ud e = false ∧ s.ts = false ∧
      ((∃ x, s.xmmSource .vex e.len src = .error x ∧ vex128Form f e d a src s = x.outcome s) ∨
       ∃ v, s.xmmSource .vex e.len src = .ok v ∧
        vex128Form f e d a src s = .next (s.vex128Result e d (f (s.readXmm a) v)))) := by
  unfold vex128Form
  cases hu : s.vex128Ud e <;> cases ht : s.ts <;> cases hs : s.xmmSource .vex e.len src <;> simp

/-- What a VEX.256 form does, once (R150). -/
theorem vex256Form_cases (f : BitVec 256 → BitVec 256 → BitVec 256) (e : Enc) (d a : Fin 16)
    (src : RegMem 16) (s : State) :
    (s.vex256Ud e = true ∧ vex256Form f e d a src s = takeException .ud s) ∨
    (s.vex256Ud e = false ∧ s.ts = true ∧ vex256Form f e d a src s = takeException .nm s) ∨
    (s.vex256Ud e = false ∧ s.ts = false ∧
      ((∃ x, s.ymmSource e.len src = .error x ∧ vex256Form f e d a src s = x.outcome s) ∨
       ∃ v, s.ymmSource e.len src = .ok v ∧
        vex256Form f e d a src s = .next (s.vex256Result e d (f (s.readYmm a) v)))) := by
  unfold vex256Form
  cases hu : s.vex256Ud e <;> cases ht : s.ts <;> cases hs : s.ymmSource e.len src <;> simp

/-! ## The step -/

/-- What a step does, once (spec/60_exceptions.md R160). -/
theorem step_cases (s : State) :
    (s.fetchFaults = true ∧ step s = takeException .gp s) ∨
    (s.fetchFaults = false ∧
      ((∃ i, decode s.ctx s.fetch = .instr i ∧ step s = exec i s) ∨
       (decode s.ctx s.fetch = .ud ∧ step s = takeException .ud s) ∨
       (decode s.ctx s.fetch = .gp ∧ step s = takeException .gp s) ∨
       (decode s.ctx s.fetch = .notInGroup ∧ step s = .refused .notInGroup) ∨
       (decode s.ctx s.fetch = .textEnds ∧ step s = .refused .endOfText))) := by
  unfold step
  cases hf : s.fetchFaults <;> cases hd : decode s.ctx s.fetch <;> simp

/-- Once a step completes it has run a decoded instruction. -/
theorem step_next {s t : State} (h : step s = .next t) :
    ∃ i, decode s.ctx s.fetch = .instr i ∧ exec i s = .next t := by
  rcases step_cases s with ⟨_, he⟩ | ⟨_, ⟨i, hd, he⟩ | ⟨_, he⟩ | ⟨_, he⟩ | ⟨_, he⟩ | ⟨_, he⟩⟩
  · rw [he] at h; cases h
  · exact ⟨i, hd, he ▸ h⟩
  all_goals rw [he] at h; cases h

end Sys2Proof.Machine
end

