-- ==== Sys2Proof/Laws/PerInstr.lean ====
section
/-! SUPPORT. Facts about every instruction as syntax, one lemma for each constructor. -/

namespace Sys2Proof.Laws

/-- The encoder fills an encoding up to the length the instruction carries. -/
theorem encode_length (c : Ctx) (i : Instr) (h : i.lenFits c = true) : (i.encode c).length = i.enc.len := by
  have h' : i.minLen c ≤ i.enc.len := of_decide_eq_true h
  unfold Instr.minLen at h'
  simp only [Instr.encode, List.length_append, List.length_replicate]
  omega

namespace EncodeLength

/-- The encoding of an instruction has the length the instruction carries (spec/30_encoding.md R79). -/
def Statement (i : Instr) : Prop := ∀ c : Ctx, i.lenFits c = true → (i.encode c).length = i.enc.len

theorem punpcklbwMm (e : Enc) (d : Fin 8) (src : RegMem 8) : Statement (.punpcklbwMm e d src) :=
  fun ctx h => encode_length ctx _ h

theorem punpcklwdMm (e : Enc) (d : Fin 8) (src : RegMem 8) : Statement (.punpcklwdMm e d src) :=
  fun ctx h => encode_length ctx _ h

theorem punpckldqMm (e : Enc) (d : Fin 8) (src : RegMem 8) : Statement (.punpckldqMm e d src) :=
  fun ctx h => encode_length ctx _ h

theorem punpcklbwXmm (e : Enc) (d : Fin 16) (src : RegMem 16) : Statement (.punpcklbwXmm e d src) :=
  fun ctx h => encode_length ctx _ h

theorem punpcklwdXmm (e : Enc) (d : Fin 16) (src : RegMem 16) : Statement (.punpcklwdXmm e d src) :=
  fun ctx h => encode_length ctx _ h

theorem punpckldqXmm (e : Enc) (d : Fin 16) (src : RegMem 16) : Statement (.punpckldqXmm e d src) :=
  fun ctx h => encode_length ctx _ h

theorem punpcklqdqXmm (e : Enc) (d : Fin 16) (src : RegMem 16) : Statement (.punpcklqdqXmm e d src) :=
  fun ctx h => encode_length ctx _ h

theorem vpunpcklbwXmm (e : Enc) (d a : Fin 16) (src : RegMem 16) : Statement (.vpunpcklbwXmm e d a src) :=
  fun ctx h => encode_length ctx _ h

theorem vpunpcklwdXmm (e : Enc) (d a : Fin 16) (src : RegMem 16) : Statement (.vpunpcklwdXmm e d a src) :=
  fun ctx h => encode_length ctx _ h

theorem vpunpckldqXmm (e : Enc) (d a : Fin 16) (src : RegMem 16) : Statement (.vpunpckldqXmm e d a src) :=
  fun ctx h => encode_length ctx _ h

theorem vpunpcklqdqXmm (e : Enc) (d a : Fin 16) (src : RegMem 16) : Statement (.vpunpcklqdqXmm e d a src) :=
  fun ctx h => encode_length ctx _ h

theorem vpunpcklbwYmm (e : Enc) (d a : Fin 16) (src : RegMem 16) : Statement (.vpunpcklbwYmm e d a src) :=
  fun ctx h => encode_length ctx _ h

theorem vpunpcklwdYmm (e : Enc) (d a : Fin 16) (src : RegMem 16) : Statement (.vpunpcklwdYmm e d a src) :=
  fun ctx h => encode_length ctx _ h

theorem vpunpckldqYmm (e : Enc) (d a : Fin 16) (src : RegMem 16) : Statement (.vpunpckldqYmm e d a src) :=
  fun ctx h => encode_length ctx _ h

theorem vpunpcklqdqYmm (e : Enc) (d a : Fin 16) (src : RegMem 16) : Statement (.vpunpcklqdqYmm e d a src) :=
  fun ctx h => encode_length ctx _ h

end EncodeLength

end Sys2Proof.Laws
end

