-- ==== Sys2Proof/Tests/Slice0.lean ====
section
/-! SUPPORT. The model's own tests. Expected values are those of spec/95_test_vectors.md (sections 2 to 4) and
spec/30_encoding.md R86, or worked out by hand from the rule a comment names. The last part shows, for each
statement with hypotheses, a state and operands that meet all of them. -/

namespace Sys2Proof.Tests

open Sys2Proof.Machine

/-! ## Contexts, states and inputs -/

/-- 64-bit mode. -/
def c64 : Ctx := ⟨.long64, false⟩

/-- 32-bit protected mode. -/
def c32 : Ctx := ⟨.prot32, true⟩

/-- Virtual-8086 mode. -/
def c86 : Ctx := ⟨.v8086, false⟩

/-- 64-bit mode with every class enabled, at 1000h. -/
def base64 : State := { State.reset.enterLong64 with cr4 := 0x40200, xcr0 := 7, rip := 0x1000 }

/-- A flat segment. -/
def flat : SegReg := { SegReg.afterReset with selector := 8, limit := 0xFFFFFFFF, d := true }

/-- 32-bit protected mode with every class enabled and flat segments, at 400h. -/
def base32 : State :=
  { State.reset with cr0 := 0x60000011, cr4 := 0x40200, xcr0 := 7, rip := 0x400, cs := flat, ds := flat, ss := flat }

/-- Program text placed at the instruction pointer. -/
def load (s : State) (bs : List Byte) : State := { s with text := s.placeText [] 0 bs }

/-- One step on given bytes. -/
def run1 (s : State) (bs : List Byte) : Option State := nextOf (step (load s bs))

/-- `RAX` set, and bytes stored at an address. -/
def withMem (s : State) (rax : Word) (a : Nat) (bs : List Byte) : State :=
  { s with gpr := s.gpr.set 0 rax, mem := writeBytes s.mem a bs }

def inA : BitVec 128 := 0x0F0E0D0C0B0A09080706050403020100
def inB : BitVec 128 := 0x1F1E1D1C1B1A19181716151413121110
def inX : BitVec 128 := 0xFEDCBA98765432100123456789ABCDEF
def inY : BitVec 128 := 0x00112233445566778899AABBCCDDEEFF
def inUp : BitVec 128 := 0xDEADBEEFCAFEF00D0123456789ABCDEF
def inA2 : BitVec 256 := 0x2F2E2D2C2B2A292827262524232221200F0E0D0C0B0A09080706050403020100
def inB2 : BitVec 256 := 0x3F3E3D3C3B3A393837363534333231301F1E1D1C1B1A19181716151413121110
def inX2 : BitVec 256 := 0xA5A5A5A55A5A5A5AC3C3C3C33C3C3C3CFEDCBA98765432100123456789ABCDEF
def inY2 : BitVec 256 := 0x0F1E2D3C4B5A69788796A5B4C3D2E1F000112233445566778899AABBCCDDEEFF

/-- `MM0` and `MM1` set. -/
def mmx (a b : BitVec 64) : State := (base64.writeMm 0 a).writeMm 1 b

/-- `YMM0` and `YMM1` set. -/
def sse (a b : BitVec 128) : State := (base64.writeYmm 0 (inUp ++ a)).writeYmm 1 (inUp ++ b)

/-- `YMM0` to `YMM2` set. -/
def vex (a b : BitVec 256) : State := ((base64.writeYmm 0 inX2).writeYmm 1 a).writeYmm 2 b

/-- `YMM1` and `YMM2` with the marker in their upper halves. -/
def vexUp (a b : BitVec 128) : State := vex (inUp ++ a) (inUp ++ b)

/-! ## Well-formedness: one ill-formed term for each check -/

theorem test_wf_high_register : Instr.wf c32 (.punpcklbwXmm ⟨5, false⟩ 8 (.reg 1)) = false := by decide
theorem test_wf_high_source : Instr.wf c32 (.punpcklbwXmm ⟨5, false⟩ 1 (.reg 8)) = false := by decide
theorem test_wf_high_vvvv : Instr.wf c32 (.vpunpcklbwXmm ⟨4, false⟩ 0 8 (.reg 1)) = false := by decide
theorem test_wf_high_base : MemOp.wf c32 ⟨.ds, .a32, .gpr 8, none, 0⟩ = false := by decide
theorem test_wf_index_rsp : MemOp.wf c64 ⟨.ds, .a64, .gpr 0, some (4, 0), 0⟩ = false := by decide
theorem test_wf_rip_outside_long64 : MemOp.wf c32 ⟨.ds, .a32, .next, none, 0⟩ = false := by decide
theorem test_wf_rip_with_index : MemOp.wf c64 ⟨.ds, .a64, .next, some (0, 0), 0⟩ = false := by decide
theorem test_wf_a64_outside_long64 : MemOp.wf c32 ⟨.ds, .a64, .gpr 0, none, 0⟩ = false := by decide
theorem test_wf_a16_in_long64 : MemOp.wf c64 ⟨.ds, .a16, .gpr 3, none, 0⟩ = false := by decide
theorem test_wf_a16_base : MemOp.wf c86 ⟨.ds, .a16, .gpr 0, none, 0⟩ = false := by decide
theorem test_wf_a16_pair : MemOp.wf c86 ⟨.ds, .a16, .gpr 6, some (7, 0), 0⟩ = false := by decide
theorem test_wf_a16_disp : MemOp.wf c86 ⟨.ds, .a16, .gpr 3, none, 0x8000⟩ = false := by decide
theorem test_wf_vex_in_v8086 : Instr.wf c86 (.vpunpcklbwXmm ⟨4, false⟩ 0 1 (.reg 2)) = false := by decide
theorem test_wf_vex_lock : Instr.wf c64 (.vpunpcklbwXmm ⟨4, true⟩ 0 1 (.reg 2)) = false := by decide
theorem test_wf_too_short : Instr.wf c64 (.punpcklbwMm ⟨2, false⟩ 0 (.reg 1)) = false := by decide
theorem test_wf_too_long : Instr.wf c64 (.punpcklbwMm ⟨16, false⟩ 0 (.reg 1)) = false := by decide
theorem test_wf_length_fits : Instr.lenFits c64 (.punpcklbwXmm ⟨3, false⟩ 0 (.reg 1)) = false := by decide

/-! ## Decoding: every constructor, from the words of R86 and of spec/95_test_vectors.md section 3 -/

theorem test_dec_punpcklbw_mm : decode c64 [0x0F, 0x60, 0x6B, 0x08] =
    .instr (.punpcklbwMm ⟨4, false⟩ 5 (.mem ⟨.ds, .a64, .gpr 3, none, 8⟩)) := by decide
theorem test_dec_punpcklwd_mm : decode c64 [0x0F, 0x61, 0xD3] =
    .instr (.punpcklwdMm ⟨3, false⟩ 2 (.reg 3)) := by decide
theorem test_dec_punpckldq_mm : decode c64 [0x0F, 0x62, 0xFE] =
    .instr (.punpckldqMm ⟨3, false⟩ 7 (.reg 6)) := by decide
theorem test_dec_punpcklbw_xmm : decode c64 [0x66, 0x45, 0x0F, 0x60, 0xFF] =
    .instr (.punpcklbwXmm ⟨5, false⟩ 15 (.reg 15)) := by decide
theorem test_dec_punpcklwd_xmm : decode c64 [0x66, 0x0F, 0x61, 0x16] =
    .instr (.punpcklwdXmm ⟨4, false⟩ 2 (.mem ⟨.ds, .a64, .gpr 6, none, 0⟩)) := by decide
theorem test_dec_punpckldq_xmm : decode c64 [0x66, 0x0F, 0x62, 0xC1] =
    .instr (.punpckldqXmm ⟨4, false⟩ 0 (.reg 1)) := by decide
theorem test_dec_punpcklqdq_xmm : decode c64 [0x66, 0x0F, 0x6C, 0x1D, 0x00, 0x01, 0x00, 0x00] =
    .instr (.punpcklqdqXmm ⟨8, false⟩ 3 (.mem ⟨.ds, .a64, .next, none, 0x100⟩)) := by decide
theorem test_dec_vpunpcklbw_xmm : decode c64 [0xC4, 0xC1, 0x71, 0x60, 0xC2] =
    .instr (.vpunpcklbwXmm ⟨5, false⟩ 0 1 (.reg 10)) := by decide
theorem test_dec_vpunpcklwd_xmm : decode c64 [0xC5, 0xE9, 0x61, 0xDA] =
    .instr (.vpunpcklwdXmm ⟨4, false⟩ 3 2 (.reg 2)) := by decide
theorem test_dec_vpunpckldq_xmm : decode c64 [0xC5, 0xF1, 0x62, 0xC2] =
    .instr (.vpunpckldqXmm ⟨4, false⟩ 0 1 (.reg 2)) := by decide
theorem test_dec_vpunpcklqdq_xmm : decode c64 [0xC5, 0xD1, 0x6C, 0x27] =
    .instr (.vpunpcklqdqXmm ⟨4, false⟩ 4 5 (.mem ⟨.ds, .a64, .gpr 7, none, 0⟩)) := by decide
theorem test_dec_vpunpcklbw_ymm : decode c32 [0xC5, 0xCD, 0x60, 0x3C, 0x7E] =
    .instr (.vpunpcklbwYmm ⟨5, false⟩ 7 6 (.mem ⟨.ds, .a32, .gpr 6, some (7, 1), 0⟩)) := by decide
theorem test_dec_vpunpcklwd_ymm : decode c64 [0xC5, 0xF5, 0x61, 0xC2] =
    .instr (.vpunpcklwdYmm ⟨4, false⟩ 0 1 (.reg 2)) := by decide
theorem test_dec_vpunpckldq_ymm : decode c64 [0xC4, 0x01, 0x2D, 0x62, 0x0C, 0xC8] =
    .instr (.vpunpckldqYmm ⟨6, false⟩ 9 10 (.mem ⟨.ds, .a64, .gpr 8, some (9, 3), 0⟩)) := by decide
theorem test_dec_vpunpcklqdq_ymm : decode c64 [0xC5, 0xF5, 0x6C, 0xC2] =
    .instr (.vpunpcklqdqYmm ⟨4, false⟩ 0 1 (.reg 2)) := by decide

theorem test_dec_sib_rsp : decode c64 [0x66, 0x0F, 0x60, 0x4C, 0x24, 0x10] =
    .instr (.punpcklbwXmm ⟨6, false⟩ 1 (.mem ⟨.ss, .a64, .gpr 4, none, 0x10⟩)) := by decide
theorem test_dec_r13_disp8 : decode c64 [0x66, 0x41, 0x0F, 0x60, 0x4D, 0x00] =
    .instr (.punpcklbwXmm ⟨6, false⟩ 1 (.mem ⟨.ds, .a64, .gpr 13, none, 0⟩)) := by decide
theorem test_dec_sib_disp32 : decode c64 [0x66, 0x0F, 0x60, 0x8C, 0x88, 0x78, 0x56, 0x34, 0x12] =
    .instr (.punpcklbwXmm ⟨9, false⟩ 1 (.mem ⟨.ds, .a64, .gpr 0, some (1, 2), 0x12345678⟩)) := by decide
theorem test_dec_fs_override : decode c64 [0x64, 0x66, 0x0F, 0x60, 0x08] =
    .instr (.punpcklbwXmm ⟨5, false⟩ 1 (.mem ⟨.fs, .a64, .gpr 0, none, 0⟩)) := by decide
/-- In 64-bit mode a `DS` override is ignored behind `FS` (R63); elsewhere the last override wins. -/
theorem test_dec_ignored_override : decode c64 [0x64, 0x3E, 0x66, 0x0F, 0x60, 0x08] =
    .instr (.punpcklbwXmm ⟨6, false⟩ 1 (.mem ⟨.fs, .a64, .gpr 0, none, 0⟩)) ∧
    decode c32 [0x64, 0x3E, 0x66, 0x0F, 0x60, 0x08] =
    .instr (.punpcklbwXmm ⟨6, false⟩ 1 (.mem ⟨.ds, .a32, .gpr 0, none, 0⟩)) := by decide
theorem test_dec_ebp_disp8 : decode c32 [0x66, 0x0F, 0x60, 0x4D, 0xF0] =
    .instr (.punpcklbwXmm ⟨5, false⟩ 1 (.mem ⟨.ss, .a32, .gpr 5, none, 0xFFFFFFF0⟩)) := by decide
theorem test_dec_bx_si : decode c32 [0x67, 0x66, 0x0F, 0x60, 0x08] =
    .instr (.punpcklbwXmm ⟨5, false⟩ 1 (.mem ⟨.ds, .a16, .gpr 3, some (6, 0), 0⟩)) := by decide
theorem test_dec_disp32_alone : decode c32 [0x66, 0x0F, 0x60, 0x0D, 0x00, 0x10, 0x00, 0x00] =
    .instr (.punpcklbwXmm ⟨8, false⟩ 1 (.mem ⟨.ds, .a32, .none, none, 0x1000⟩)) := by decide
theorem test_dec_wig : decode c64 [0xC4, 0xE1, 0xF1, 0x60, 0xC1] =
    .instr (.vpunpcklbwXmm ⟨5, false⟩ 0 1 (.reg 1)) := by decide
theorem test_dec_inc_esp : decode c32 [0x44, 0x0F, 0x60, 0xC1] = .notInGroup := by decide
theorem test_dec_pp_and_map : decode c64 [0xC5, 0xF0, 0x60, 0xC2] = .notInGroup ∧
    decode c64 [0xC5, 0xF2, 0x60, 0xC2] = .notInGroup ∧
    decode c64 [0xC4, 0xE2, 0x71, 0x60, 0xC2] = .notInGroup := by decide
theorem test_dec_other_opcodes : decode c64 [0x66, 0x0F, 0x63, 0xC1] = .notInGroup ∧
    decode c64 [0x0F, 0x68, 0xC1] = .notInGroup := by decide

/-- The row `VPUNPCKLDQ_ymm` of spec/opcode_table.json, leftmost byte first. -/
theorem test_table_word : decodeTableWord 40 0xC4E17562C2 = some (.vpunpckldqYmm ⟨5, false⟩ 0 1 (.reg 2)) := by
  decide
/-- A program placed for the host runs as the first instruction after reset (an MMX form, R191). -/
theorem test_with_fetch_word :
    (nextOf (step (State.reset.withFetchWord 24 0x0F60C1))).map (·.rip) = some 0xFFF3 := by decide

/-! ## Execution: spec/95_test_vectors.md section 2 -/

theorem test_punpcklbw_mm :
    (run1 (mmx 0x8877665544332211 0xFFEEDDCCBBAA9988) [0x0F, 0x60, 0xC1]).map (·.readMm 0) =
      some (0xBB44AA3399228811) := by decide

theorem test_punpcklbw_mm_mem :
    (run1 (withMem (mmx 0x8877665544332211 0) 0x3001 0x3001 [0x88, 0x99, 0xAA, 0xBB]) [0x0F, 0x60, 0x00]).map (·.readMm 0) =
      some (0xBB44AA3399228811) := by decide

theorem test_punpcklwd_mm :
    (run1 (mmx 0x8877665544332211 0xFFEEDDCCBBAA9988) [0x0F, 0x61, 0xC1]).map (·.readMm 0) =
      some (0xBBAA443399882211) := by decide

theorem test_punpcklwd_mm_irregular :
    (run1 (mmx 0xDEADBEEF01234567 0xCAFEF00D89ABCDEF) [0x0F, 0x61, 0xC1]).map (·.readMm 0) =
      some (0x89AB0123CDEF4567) := by decide

theorem test_punpckldq_mm_mem :
    (run1 (withMem (mmx 0x8877665544332211 0) 0x3001 0x3001 [0x88, 0x99, 0xAA, 0xBB]) [0x0F, 0x62, 0x00]).map (·.readMm 0) =
      some (0xBBAA998844332211) := by decide

theorem test_punpckldq_mm_same :
    (run1 (mmx 0x8877665544332211 0xFFEEDDCCBBAA9988) [0x0F, 0x62, 0xC0]).map (·.readMm 0) =
      some (0x4433221144332211) := by decide

theorem test_punpcklbw_xmm :
    (run1 (sse inX inY) [0x66, 0x0F, 0x60, 0xC1]).map (·.readYmm 0) =
      some (inUp ++ 0x88019923AA45BB67CC89DDABEECDFFEF#128) := by decide

theorem test_punpcklbw_xmm_mem :
    (run1 (withMem ((sse inA 0).writeYmm 1 (inUp ++ inA)) 0x2000 0x2000 ((List.range 16).map fun k => BitVec.ofNat 8 (0x10 + k))) [0x66, 0x0F, 0x60, 0x08]).map (·.readYmm 1) =
      some (inUp ++ 0x17071606150514041303120211011000#128) := by decide

theorem test_punpcklwd_xmm :
    (run1 (sse inA inB) [0x66, 0x0F, 0x61, 0xC1]).map (·.readYmm 0) =
      some (inUp ++ 0x17160706151405041312030211100100#128) := by decide

theorem test_punpcklwd_xmm_irregular :
    (run1 (sse inX inY) [0x66, 0x0F, 0x61, 0xC1]).map (·.readYmm 0) =
      some (inUp ++ 0x88990123AABB4567CCDD89ABEEFFCDEF#128) := by decide

theorem test_punpckldq_xmm :
    (run1 (sse inA inB) [0x66, 0x0F, 0x62, 0xC1]).map (·.readYmm 0) =
      some (inUp ++ 0x17161514070605041312111003020100#128) := by decide

theorem test_punpckldq_xmm_same :
    (run1 (sse inA inB) [0x66, 0x0F, 0x62, 0xC0]).map (·.readYmm 0) =
      some (inUp ++ 0x07060504070605040302010003020100#128) := by decide

theorem test_punpcklqdq_xmm :
    (run1 (sse inX inY) [0x66, 0x0F, 0x6C, 0xC1]).map (·.readYmm 0) =
      some (inUp ++ 0x8899AABBCCDDEEFF0123456789ABCDEF#128) := by decide

theorem test_punpcklqdq_xmm_zero :
    (run1 (sse inA 0) [0x66, 0x0F, 0x6C, 0xC1]).map (·.readYmm 0) =
      some (inUp ++ 0x00000000000000000706050403020100#128) := by decide

theorem test_vpunpcklbw_xmm :
    (run1 (vexUp inA inB) [0xC5, 0xF1, 0x60, 0xC2]).map (·.readYmm 0) =
      some (0x17071606150514041303120211011000#256) := by decide

theorem test_vpunpcklbw_xmm_unaligned :
    (run1 (withMem (vexUp inA 0) 0x2001 0x2001 ((List.range 16).map fun k => BitVec.ofNat 8 (0x10 + k))) [0xC5, 0xF1, 0x60, 0x00]).map (·.readYmm 0) =
      some (0x17071606150514041303120211011000#256) := by decide

theorem test_vpunpcklwd_xmm :
    (run1 (vexUp inX inY) [0xC5, 0xF1, 0x61, 0xC2]).map (·.readYmm 0) =
      some (0x88990123AABB4567CCDD89ABEEFFCDEF#256) := by decide

theorem test_vpunpckldq_xmm :
    (run1 (vexUp inX inY) [0xC5, 0xF1, 0x62, 0xC2]).map (·.readYmm 0) =
      some (0x8899AABB01234567CCDDEEFF89ABCDEF#256) := by decide

theorem test_vpunpcklqdq_xmm :
    (run1 (vexUp inA inB) [0xC5, 0xF1, 0x6C, 0xC2]).map (·.readYmm 0) =
      some (0x17161514131211100706050403020100#256) := by decide

theorem test_vpunpcklbw_ymm_into_source :
    (run1 (vex inA2 inB2) [0xC5, 0xF5, 0x60, 0xCA]).map (·.readYmm 1) =
      some (0x3727362635253424332332223121302017071606150514041303120211011000#256) := by decide

theorem test_vpunpcklbw_ymm :
    (run1 (vex inX2 inY2) [0xC5, 0xF5, 0x60, 0xC2]).map (·.readYmm 0) =
      some (0x87C396C3A5C3B4C3C33CD23CE13CF03C88019923AA45BB67CC89DDABEECDFFEF#256) := by decide

theorem test_vpunpcklwd_ymm :
    (run1 (vex inX2 inY2) [0xC5, 0xF5, 0x61, 0xC2]).map (·.readYmm 0) =
      some (0x8796C3C3A5B4C3C3C3D23C3CE1F03C3C88990123AABB4567CCDD89ABEEFFCDEF#256) := by decide

theorem test_vpunpckldq_ymm_mem :
    (run1 (withMem (vex inA2 0) 0x2003 0x2003 ((List.range 32).map fun k => BitVec.ofNat 8 (if k < 16 then 0x10 + k else 0x20 + k))) [0xC5, 0xF5, 0x62, 0x00]).map (·.readYmm 0) =
      some (0x3736353427262524333231302322212017161514070605041312111003020100#256) := by decide

theorem test_vpunpckldq_ymm :
    (run1 (vex inX2 inY2) [0xC5, 0xF5, 0x62, 0xC2]).map (·.readYmm 0) =
      some (0x8796A5B4C3C3C3C3C3D2E1F03C3C3C3C8899AABB01234567CCDDEEFF89ABCDEF#256) := by decide

theorem test_vpunpcklqdq_ymm :
    (run1 (vex inX2 inY2) [0xC5, 0xF5, 0x6C, 0xC2]).map (·.readYmm 0) =
      some (0x8796A5B4C3D2E1F0C3C3C3C33C3C3C3C8899AABBCCDDEEFF0123456789ABCDEF#256) := by decide

/-- The x87 side effects of an MMX form (R32): `TOS` 0 with the other status bits kept, tags valid, ones above. -/
theorem test_mmx_x87 : (run1 { mmx 0 0 with x87Status := 0x3B41, x87Tag := 0xFFFF } [0x0F, 0x60, 0xD1]).map
    (fun t => (t.x87Status, t.x87Tag, t.x87High[2], t.x87High[0], t.x87Dirty, t.rip)) =
      some (0x0341, 0, 0xFFFF, 0, true, 0x1003) := by decide

/-! ## Faults and refusals: spec/95_test_vectors.md section 4 -/

/-- The fault of one step on given bytes. -/
def fault1 (s : State) (bs : List Byte) : Option Fault := faultOf (step (load s bs))

/-- Page 2 is there, page 3 is not. -/
def paged : State := { base64 with config := { resetConfig with paging := some [⟨2, 2, true, false⟩] } }

theorem test_sse_misaligned : fault1 (withMem base64 0x2008 0 []) [0x66, 0x0F, 0x60, 0x08] =
    some (.generalProtection 0x1000) := by decide
theorem test_vex_align16 :
    fault1 { withMem base64 0x2001 0 [] with config := { resetConfig with vexAlign16 := true } }
      [0xC5, 0xF1, 0x60, 0x00] = some (.generalProtection 0x1000) := by decide
theorem test_mmx_alignment_check :
    fault1 { withMem base64 0x3001 0 [] with cpl := 3, cr0 := 0x60040011, eflags := 0x40002 }
      [0x0F, 0x60, 0x00] = some (.alignmentCheck 0x1000) := by decide
theorem test_lock : fault1 base64 [0xF0, 0x66, 0x0F, 0x60, 0x00] = some (.invalidOpcode 0x1000) := by decide
theorem test_barred_vex : fault1 base64 [0x66, 0xC5, 0xF1, 0x60, 0xC1] = some (.invalidOpcode 0x1000) ∧
    fault1 base64 [0x48, 0xC5, 0xF1, 0x60, 0xC1] = some (.invalidOpcode 0x1000) := by decide
/-- A barred prefix with an allowed one behind it, and virtual-8086 mode behind an allowed prefix (R74). -/
theorem test_barred_vex_further : decode c64 [0x66, 0x2E, 0xC5, 0xF1, 0x60, 0xC1] = .ud ∧
    decode c64 [0x2E, 0xF0, 0xC4, 0xE1, 0x71, 0x60, 0xC1] = .ud ∧
    decode c86 [0x2E, 0xC5, 0xF1, 0x60, 0xC1] = .ud := by decide
theorem test_vex_control : fault1 { base64 with xcr0 := 3 } [0xC5, 0xF1, 0x60, 0xC2] =
    some (.invalidOpcode 0x1000) ∧
    (run1 { base64 with cr0 := 0x60000015, cr4 := 0x40000 } [0xC5, 0xF1, 0x60, 0xC2]).isSome = true := by decide
theorem test_nm_after_ud : fault1 { base64 with cr0 := 0x60000019 } [0x66, 0x0F, 0x60, 0xC1] =
    some (.deviceNotAvailable 0x1000) ∧
    fault1 { base64 with cr0 := 0x6000001D } [0x0F, 0x60, 0xC1] = some (.invalidOpcode 0x1000) := by decide
theorem test_mf : fault1 { base64 with x87Status := 0x80 } [0x0F, 0x60, 0xC1] = some (.x87Error 0x1000) ∧
    (run1 { base64 with x87Status := 0x80 } [0x66, 0x0F, 0x60, 0xC1]).isSome = true := by decide
theorem test_page_fault : fault1 (withMem paged 0x2FF8 0 []) [0xC5, 0xF1, 0x60, 0x00] =
    some (.pageFault 0x1000 0 0x3000) := by decide
theorem test_non_canonical :
    fault1 (withMem base64 0x800000000000 0 []) [0x66, 0x0F, 0x60, 0x08] = some (.generalProtection 0x1000) ∧
    fault1 { base64 with gpr := base64.gpr.set 4 0x800000000000 } [0x66, 0x0F, 0x60, 0x0C, 0x24] =
      some (.stackSegment 0x1000) := by decide
theorem test_overlong : fault1 base64 (List.replicate 13 0x66 ++ [0x0F, 0x60, 0xC1]) =
    some (.generalProtection 0x1000) ∧
    (run1 base64 (List.replicate 12 0x66 ++ [0x0F, 0x60, 0xC1])).map (·.rip) = some 0x100F := by decide
theorem test_refused_encodings : refusalOf (step (load base64 [0xF3, 0x0F, 0x60, 0xC1])) = some .notInGroup ∧
    refusalOf (step (load base64 [0x0F, 0x6C, 0xC1])) = some .notInGroup ∧
    refusalOf (step (load base64 [0x0F, 0x60])) = some .endOfText := by decide
theorem test_outside_ordinary_memory :
    refusalOf (step (load { withMem base64 0x2000 0 [] with
      config := { resetConfig with ordinary := [⟨0, 0x2008⟩] } } [0x66, 0x0F, 0x60, 0x08])) =
      some .notOrdinaryMemory := by decide
/-- The oracle answers for operands at 2000h only: a stack fault for an m128, addresses for an m32 (the row of a wrong
length before it is none). -/
def oracled : State :=
  { withMem base64 0x2000 0x5000 [0x88, 0x99, 0xAA, 0xBB] with
    config := { resetConfig with oracle := [⟨.ds, 0x2000, 16, .ss⟩, ⟨.ds, 0x2000, 4, .addresses [1]⟩,
      ⟨.ds, 0x2000, 4, .addresses [0x5000, 0x5001, 0x5002, 0x5003]⟩] } }

theorem test_oracle : fault1 oracled [0x66, 0x0F, 0x60, 0x08] = some (.stackSegment 0x1000) ∧
    (run1 oracled [0x0F, 0x62, 0x00]).map (·.readMm 0) = some 0xBBAA998800000000 ∧
    (run1 oracled [0x0F, 0x62, 0x40, 0x01]).map (·.readMm 0) = some 0 := by decide
/-- Program P4, first step: 32-bit protected mode. -/
theorem test_prot32 :
    (run1 { base32.writeMm 0 0x8877665544332211 with
      gpr := base32.gpr.set 3 0x3001
      mem := writeBytes [] 0x3001 [0x88, 0x99, 0xAA, 0xBB] } [0x0F, 0x60, 0x03]).map
      (fun t => (t.readMm 0, t.rip)) = some (0xBB44AA3399228811, 0x403) := by decide

/-! ## Witnesses: for each statement with hypotheses, a state and operands that meet them together -/

theorem next_of {o : Host.Outcome State Fault Refusal} (h : (nextOf o).isSome = true) : ∃ t, o = .next t := by
  cases o with
  | next t => exact ⟨t, rfl⟩
  | fault f => exact absurd h (by simp [nextOf])
  | refused r => exact absurd h (by simp [nextOf])

theorem fault_of {o : Host.Outcome State Fault Refusal} {f : Fault} (h : faultOf o = some f) : o = .fault f := by
  cases o with
  | next t => simp [faultOf] at h
  | fault g => simpa [faultOf] using h
  | refused r => simp [faultOf] at h

theorem refused_of {o : Host.Outcome State Fault Refusal} {r : Refusal} (h : refusalOf o = some r) :
    o = .refused r := by
  cases o with
  | next t => simp [refusalOf] at h
  | fault f => simp [refusalOf] at h
  | refused q => simpa [refusalOf] using h

/-- An operand at `[RAX]`. -/
def atRax (g : Seg) : MemOp := ⟨g, .a64, .gpr 0, none, 0⟩

/-- 64-bit mode with `RAX` = 2000h, 32 bytes stored there. -/
def at2000 : State := withMem base64 0x2000 0x2000 ((List.range 32).map fun k => BitVec.ofNat 8 (0x10 + k))

/-- The same at another address. -/
def atAddr (a : Word) : State := withMem base64 a 0 []

/-- CPL 3 with alignment checking on. -/
def checked (a : Word) : State := { atAddr a with cpl := 3, cr0 := 0x60040011, eflags := 0x40002 }

def mmxI : Instr := .punpcklbwMm ⟨3, false⟩ 0 (.reg 1)
def mmxM : Instr := .punpcklbwMm ⟨3, false⟩ 0 (.mem (atRax .ds))
def sseI : Instr := .punpcklwdXmm ⟨4, false⟩ 8 (.reg 1)
def sseM : Instr := .punpcklwdXmm ⟨4, false⟩ 8 (.mem (atRax .ds))
def vexI : Instr := .vpunpckldqXmm ⟨4, false⟩ 0 1 (.reg 2)
def vexM : Instr := .vpunpckldqXmm ⟨4, false⟩ 0 1 (.mem (atRax .ds))
def vexY : Instr := .vpunpcklqdqYmm ⟨4, false⟩ 0 1 (.reg 2)
def vexYM : Instr := .vpunpcklqdqYmm ⟨4, false⟩ 0 1 (.mem (atRax .ds))

/-- InterleaveLawPlacesElements. -/
theorem witness_interleave_law : 0 < 8 ∧ 1 < 2 ∧ 2 * (2 * (8 * 8)) = 256 := by decide

/-- ZeroSourceZeroExtends: sources whose bits that are read are 0 and whose others are not. -/
theorem witness_zero_source : (0xFFFFFFFF00000000 : BitVec 64).extractLsb' 0 32 = 0 ∧
    (inUp ++ 0#64).extractLsb' 0 64 = 0 ∧ (5#64 ++ 0#64 ++ 7#64 ++ 0#64).extractLsb' 0 64 = 0 ∧
    (5#64 ++ 0#64 ++ 7#64 ++ 0#64).extractLsb' 128 64 = 0 := by decide

/-- HighHalvesAreIgnored: sources that differ in their high halves only. -/
theorem witness_high_halves : (0x900000001 : BitVec 64).extractLsb' 0 32 = (1 : BitVec 64).extractLsb' 0 32 ∧
    (5#64 ++ 1#64).extractLsb' 0 64 = (6#64 ++ 1#64).extractLsb' 0 64 ∧
    (5#64 ++ 2#64 ++ 7#64 ++ 1#64).extractLsb' 0 64 = (6#64 ++ 2#64 ++ 8#64 ++ 1#64).extractLsb' 0 64 ∧
    (5#64 ++ 2#64 ++ 7#64 ++ 1#64).extractLsb' 128 64 = (6#64 ++ 2#64 ++ 8#64 ++ 1#64).extractLsb' 128 64 := by
  decide

/-- LowHalvesAreRecoverable: equal results from unequal sources, for each width of element and of source. -/
theorem witness_recoverable :
    interleaveBytes64 0x900000001 3 = interleaveBytes64 1 3 ∧
    interleaveWords64 0x900000001 3 = interleaveWords64 1 3 ∧
    interleaveDwords64 0x900000001 3 = interleaveDwords64 1 3 ∧
    interleaveBytes (5#64 ++ 1#64) 3 = interleaveBytes 1 3 ∧
    interleaveWords (5#64 ++ 1#64) 3 = interleaveWords 1 3 ∧
    interleaveDwords (5#64 ++ 1#64) 3 = interleaveDwords 1 3 ∧
    interleaveQwords (5#64 ++ 1#64) 3 = interleaveQwords 1 3 ∧
    interleaveBytes256 (5#64 ++ 1#192) 3 = interleaveBytes256 1 3 ∧
    interleaveWords256 (5#64 ++ 1#192) 3 = interleaveWords256 1 3 ∧
    interleaveDwords256 (5#64 ++ 1#192) 3 = interleaveDwords256 1 3 ∧
    interleaveQwords256 (5#64 ++ 1#192) 3 = interleaveQwords256 1 3 := by decide

/-- PunpcklbwMmResult, PunpcklwdMmResult, PunpckldqMmResult. -/
theorem witness_mmx_results : (⟨3, false⟩ : Enc).lock = false ∧ at2000.enabledMmx = true ∧
    at2000.mmSrcOk 3 (.reg 1) = true ∧ at2000.mmSrcOk 3 (.mem (atRax .ds)) = true := by decide

/-- PunpcklbwXmmResult, PunpcklwdXmmResult, PunpckldqXmmResult, PunpcklqdqXmmResult. -/
theorem witness_sse_results : (⟨4, false⟩ : Enc).lock = false ∧ at2000.enabledSse = true ∧
    at2000.vecSrcOk .sse 4 16 (.reg 1) = true ∧ at2000.vecSrcOk .sse 4 16 (.mem (atRax .ds)) = true := by decide

/-- VpunpcklbwXmmResult, VpunpcklwdXmmResult, VpunpckldqXmmResult, VpunpcklqdqXmmResult. -/
theorem witness_vex128_results : (⟨4, false⟩ : Enc).lock = false ∧ (atAddr 0x2001).enabledVex128 = true ∧
    (atAddr 0x2001).vecSrcOk .vex 4 16 (.reg 1) = true ∧
    (atAddr 0x2001).vecSrcOk .vex 4 16 (.mem (atRax .ds)) = true := by decide

/-- VpunpcklbwYmmResult, VpunpcklwdYmmResult, VpunpckldqYmmResult, VpunpcklqdqYmmResult. -/
theorem witness_vex256_results : (⟨4, false⟩ : Enc).lock = false ∧ (atAddr 0x2001).config.hasAvx2 = true ∧
    (atAddr 0x2001).vexReady = true ∧ (atAddr 0x2001).vecSrcOk .vex 4 32 (.reg 1) = true ∧
    (atAddr 0x2001).vecSrcOk .vex 4 32 (.mem (atRax .ds)) = true := by decide

/-- MmxFormsFrame, CompletedFormsAdvanceThePc. -/
theorem witness_mmx_frame : mmxM.shape = .mmx 0 (.mem (atRax .ds)) ∧ ∃ t, exec mmxM at2000 = .next t :=
  ⟨rfl, next_of (by decide)⟩

/-- SseFormsFrame. -/
theorem witness_sse_frame : sseM.shape = .sse 8 (.mem (atRax .ds)) ∧ ∃ t, exec sseM at2000 = .next t :=
  ⟨rfl, next_of (by decide)⟩

/-- Vex128FormsFrame. -/
theorem witness_vex128_frame : vexM.shape = .vex false 0 1 (.mem (atRax .ds)) ∧
    ∃ t, exec vexM (atAddr 0x2001) = .next t := ⟨rfl, next_of (by decide)⟩

/-- Vex256FormsFrame. -/
theorem witness_vex256_frame : vexYM.shape = .vex true 0 1 (.mem (atRax .ds)) ∧
    ∃ t, exec vexYM (atAddr 0x2001) = .next t := ⟨rfl, next_of (by decide)⟩

/-- A state an MMX form has already run in, with text at the instruction pointer. -/
def dirty : State :=
  { load (withMem base64 0x2000 0x2000 [1, 2, 3, 4]) [0x0F, 0x60, 0x00] with x87Dirty := true, x87Tag := 0 }

/-- StepKeepsInvariant, StepChangesNoSystemState. -/
theorem witness_invariant : dirty.Inv ∧ dirty.x87Dirty = true ∧ ∃ t, step dirty = .next t :=
  ⟨⟨by decide, by decide, by unfold State.pcFits; decide, fun _ => by decide⟩, rfl, next_of (by decide)⟩

/-- FaultsSaveTheInstructionAddress. -/
theorem witness_fault : step (load (atAddr 0x2008) [0x66, 0x0F, 0x60, 0x08]) = .fault (.generalProtection 0x1000) ∧
    exec sseM (atAddr 0x2008) = .fault (.generalProtection 0x1000) :=
  ⟨fault_of (by decide), fault_of (by decide)⟩

/-- LockOrMissingFeatureIsUd: `LOCK`, then each of the four flags at 0. -/
theorem witness_ud : (Instr.punpcklbwXmm ⟨5, true⟩ 0 (.mem (atRax .ds))).enc.lock = true ∧
    shapeFeatured { base64 with config := { resetConfig with hasMmx := false } } mmxI.shape = false ∧
    shapeFeatured { base64 with config := { resetConfig with hasSse2 := false } } sseI.shape = false ∧
    shapeFeatured { base64 with config := { resetConfig with hasAvx := false } } vexI.shape = false ∧
    shapeFeatured { base64 with config := { resetConfig with hasAvx2 := false } } vexY.shape = false := by decide

/-- MmxUdExactlyOnEmulation, SseUdExactlyOnControlBits, VexUdExactlyOnModeAndState. -/
theorem witness_ud_exactly : mmxI.shape = .mmx 0 (.reg 1) ∧ sseI.shape = .sse 8 (.reg 1) ∧
    vexI.shape = .vex false 0 1 (.reg 2) ∧ vexY.shape = .vex true 0 1 (.reg 2) := by decide

/-- 64-bit mode with `CR0.TS` set. -/
def switched : State := { base64 with cr0 := 0x60000019 }

/-- NmAfterEveryUdCondition: both clauses. -/
theorem witness_nm : switched.cr0.getLsbD 3 = true ∧ switched.udFor sseI = false ∧
    ({ switched with cr4 := 0 } : State).cr0.getLsbD 3 = true ∧
    ({ switched with cr4 := 0 } : State).udFor sseI = true := by decide

/-- MfForMmxFormsOnly: both clauses. -/
theorem witness_mf : isMmxForm mmxI = true ∧ ({ base64 with x87Status := 0x80 } : State).udFor mmxI = false ∧
    ({ base64 with x87Status := 0x80 } : State).ts = false ∧
    ({ base64 with x87Status := 0x80 } : State).x87Status.getLsbD 7 = true ∧ isMmxForm sseI = false ∧
    isMmxForm vexY = false := by decide

/-- AlignmentCheckForMmxFormsOnly: both clauses. -/
theorem witness_ac : exec mmxM (checked 0x3003) = .fault (.alignmentCheck 0x1000) ∧
    mmxM.shape = .mmx 0 (.mem (atRax .ds)) ∧ mmxM.enc.lock = false ∧ (checked 0x3003).enabledMmx = true ∧
    (checked 0x3003).alignCheck = true ∧
    ((checked 0x3003).linear .ds ((checked 0x3003).effAddr 3 (atRax .ds))).toNat % 4 ≠ 0 ∧
    ∃ as, (checked 0x3003).translate .ds ((checked 0x3003).effAddr 3 (atRax .ds)) 4 = .ok as :=
  ⟨fault_of (by decide), rfl, by decide, by decide, by decide, by decide, _, rfl⟩

/-- MisalignedSseOperandIsGp. -/
theorem witness_misaligned : sseM.shape = .sse 8 (.mem (atRax .ds)) ∧ sseM.enc.lock = false ∧
    (atAddr 0x200F).enabledSse = true ∧
    ((atAddr 0x200F).linear .ds ((atAddr 0x200F).effAddr 4 (atRax .ds))).toNat % 16 ≠ 0 := by decide

/-- `VEX_ALIGN16` set, `RAX` as given. -/
def aligned16 (a : Word) : State := { atAddr a with config := { resetConfig with vexAlign16 := true } }

/-- VexAlignmentFollowsTheParameter: both clauses for both lengths (a multiple of 16 is misaligned for 32 bytes). -/
theorem witness_vex_alignment : vexM.shape = .vex false 0 1 (.mem (atRax .ds)) ∧
    vexYM.shape = .vex true 0 1 (.mem (atRax .ds)) ∧ vexM.enc.lock = false ∧ vexYM.enc.lock = false ∧
    (aligned16 0x2008).vexReady = true ∧ (aligned16 0x2008).config.hasAvx = true ∧
    (aligned16 0x2008).config.vexAlign16 = true ∧
    ((aligned16 0x2008).linear .ds ((aligned16 0x2008).effAddr 4 (atRax .ds))).toNat % 16 ≠ 0 ∧
    (aligned16 0x2010).vexReady = true ∧ (aligned16 0x2010).config.hasAvx2 = true ∧
    (aligned16 0x2010).config.vexAlign16 = true ∧
    ((aligned16 0x2010).linear .ds ((aligned16 0x2010).effAddr 4 (atRax .ds))).toNat % 32 ≠ 0 ∧
    (atAddr 0x2001).config.vexAlign16 = false ∧ (atAddr 0x2001).vexReady = true ∧
    (atAddr 0x2001).config.hasAvx = true ∧ (atAddr 0x2001).config.hasAvx2 = true ∧
    (∃ as, (atAddr 0x2001).translate .ds ((atAddr 0x2001).effAddr 4 (atRax .ds)) 16 = .ok as ∧
      as.all (ordinaryAt (atAddr 0x2001).config.ordinary) = true) ∧
    ∃ as, (atAddr 0x2001).translate .ds ((atAddr 0x2001).effAddr 4 (atRax .ds)) 32 = .ok as ∧
      as.all (ordinaryAt (atAddr 0x2001).config.ordinary) = true := by
  refine ⟨rfl, rfl, rfl, rfl, ?_, rfl, rfl, ?_, ?_, rfl, rfl, ?_, rfl, ?_, rfl, rfl, ⟨_, rfl, ?_⟩, ⟨_, rfl, ?_⟩⟩ <;>
    decide

/-- 32-bit protected mode with one data segment changed. -/
def withDs (r : SegReg) : State := { base32 with ds := r }

/-- SegmentChecksFault: each clause at the first address that fails (FFFDh for 4 bytes in real-address mode, the byte
after the limit, a selector of 3, the first non-canonical byte), and the last that does not. -/
theorem witness_segment : State.reset.config.oracle = [] ∧ base32.config.oracle = [] ∧ base64.config.oracle = [] ∧
    State.reset.mode = .real ∧ (0xFFFD : Word).toNat + 4 > 0x10000 ∧
    State.reset.segOk .ds 0xFFFC 4 = true ∧
    ({ State.reset with ds := { SegReg.afterReset with limit := 0xFFF } } : State).mode = .real ∧
    (0xFFD : Word).toNat + 4 >
      (({ State.reset with ds := { SegReg.afterReset with limit := 0xFFF } } : State).segReg .ds).limit.toNat + 1 ∧
    ({ State.reset with ds := { SegReg.afterReset with limit := 0xFFF } } : State).segOk .ds 0xFFC 4 = true ∧
    ({ State.reset with ds := { SegReg.afterReset with limit := 0xFFF } } : State).segOk .ds 0xFFD 4 = false ∧
    base32.mode = .prot32 ∧ (withDs { flat with readable := false }).mode = .prot32 ∧
    ((withDs { flat with readable := false }).segReg .ds).readable = false ∧
    ((withDs { flat with selector := 3 }).segReg .ds).selector.toNat < 4 ∧
    (0xFFD : Word).toNat + 4 > ((withDs { flat with limit := 0xFFF }).segReg .ds).limit.toNat + 1 ∧
    (withDs { flat with limit := 0xFFF }).segOk .ds 0xFFC 4 = true ∧
    base64.mode = .long64 ∧
    (base64.linear .ss (0x7FFFFFFFFFFD + BitVec.ofNat 64 3)).getLsbD 47 ≠
      (base64.linear .ss (0x7FFFFFFFFFFD + BitVec.ofNat 64 3)).getLsbD 63 ∧
    base64.segOk .ss 0x7FFFFFFFFFFC 4 = true := by decide

/-- User code with page 2 present for it, page 3 not present, page 4 for the system only. -/
def pagedUser : State :=
  { base64 with cpl := 3, config := { resetConfig with paging := some [⟨2, 2, true, false⟩, ⟨4, 4, false, false⟩] } }

/-- PageFaultNamesTheFirstBadByte: an operand at the end of a good page, a page not present after two good bytes, and a protected page. -/
theorem witness_page_fault : pagedUser.config.oracle = [] ∧ pagedUser.segOk .ds 0x2FFC 4 = true ∧
    (pagedUser.linearBytes .ds 0x2FFC 4).all pagedUser.pageOk = true ∧ pagedUser.segOk .ds 0x2FFE 4 = true ∧
    pagedUser.linearBytes .ds 0x2FFE 4 = [0x2FFE, 0x2FFF] ++ 0x3000 :: [0x3001] ∧
    ([0x2FFE, 0x2FFF] : List Word).all pagedUser.pageOk = true ∧ pagedUser.pageOk 0x3000 = false ∧
    pagedUser.pageMap = some [⟨2, 2, true, false⟩, ⟨4, 4, false, false⟩] ∧
    findPage [⟨2, 2, true, false⟩, ⟨4, 4, false, false⟩] ((0x3000 : Word).toNat / 4096) = none ∧
    pagedUser.linearBytes .ds 0x4000 4 = [] ++ 0x4000 :: [0x4001, 0x4002, 0x4003] ∧
    pagedUser.segOk .ds 0x4000 4 = true ∧ pagedUser.pageOk 0x4000 = false ∧
    findPage [⟨2, 2, true, false⟩, ⟨4, 4, false, false⟩] ((0x4000 : Word).toNat / 4096) =
      some ⟨4, 4, false, false⟩ ∧
    ({ base64 with config := { resetConfig with paging := some [⟨4, 4, true, true⟩] } } : State).pageOk 0x4000 =
      false := by decide

/-- MemoryOperandsAreLittleEndian: each clause, and both values of `FETCH64`. -/
theorem witness_little_endian : (∃ v, at2000.mmSource 3 (.mem (atRax .ds)) = .ok v) ∧
    (∃ v, at2000.xmmSource .sse 4 (.mem (atRax .ds)) = .ok v) ∧
    (∃ v, ({ at2000 with config := { resetConfig with fetch64 := true } } : State).xmmSource .vex 4
      (.mem (atRax .ds)) = .ok v) ∧
    (∃ v, at2000.ymmSource 4 (.mem (atRax .ds)) = .ok v) := ⟨⟨_, rfl⟩, ⟨_, rfl⟩, ⟨_, rfl⟩, ⟨_, rfl⟩⟩

/-- Ordinary memory that ends inside the operand at 2000h. -/
def fenced : State := { at2000 with config := { resetConfig with ordinary := [⟨0, 0x200F⟩] } }

/-- FetchWidthChangesNoOutcome: each clause. -/
theorem witness_fetch_width : (∃ t, exec sseM at2000 = .next t) ∧
    exec sseM (atAddr 0x2008) = .fault (.generalProtection 0x1000) ∧
    exec sseM fenced = .refused .notOrdinaryMemory :=
  ⟨next_of (by decide), fault_of (by decide), refused_of (by decide)⟩

/-- OperandOutsideOrdinaryMemoryIsRefused: both clauses. -/
theorem witness_not_ordinary : memOperandOf sseM = some (.sse, atRax .ds, 16) ∧ fenced.udFor sseM = false ∧
    fenced.ts = false ∧ isMmxForm sseM = false ∧
    fenced.misaligned .sse .ds (fenced.effAddr 4 (atRax .ds)) 16 = false ∧
    fenced.alignTrap .sse .ds (fenced.effAddr 4 (atRax .ds)) = false ∧
    (∃ as, fenced.translate .ds (fenced.effAddr 4 (atRax .ds)) 16 = .ok as ∧
      as.all (ordinaryAt fenced.config.ordinary) = false) ∧
    exec sseM fenced = .refused .notOrdinaryMemory := by
  refine ⟨rfl, by decide, by decide, by decide, by decide, by decide, ⟨_, rfl, by decide⟩, ?_⟩
  exact refused_of (by decide)

/-- VexAndLegacyFormsAgreeBelow128: each width. -/
theorem witness_vex_and_legacy :
    ((∃ t, exec (.vpunpcklbwXmm ⟨4, false⟩ 0 0 (.reg 1)) base64 = .next t) ∧
      ∃ u, exec (.punpcklbwXmm ⟨4, false⟩ 0 (.reg 1)) base64 = .next u) ∧
    ((∃ t, exec (.vpunpcklwdXmm ⟨4, false⟩ 0 0 (.reg 1)) base64 = .next t) ∧
      ∃ u, exec (.punpcklwdXmm ⟨4, false⟩ 0 (.reg 1)) base64 = .next u) ∧
    ((∃ t, exec (.vpunpckldqXmm ⟨4, false⟩ 0 0 (.reg 1)) base64 = .next t) ∧
      ∃ u, exec (.punpckldqXmm ⟨4, false⟩ 0 (.reg 1)) base64 = .next u) ∧
    (∃ t, exec (.vpunpcklqdqXmm ⟨4, false⟩ 0 0 (.reg 1)) base64 = .next t) ∧
      ∃ u, exec (.punpcklqdqXmm ⟨4, false⟩ 0 (.reg 1)) base64 = .next u :=
  ⟨⟨next_of (by decide), next_of (by decide)⟩, ⟨next_of (by decide), next_of (by decide)⟩,
    ⟨next_of (by decide), next_of (by decide)⟩, next_of (by decide), next_of (by decide)⟩

/-- DecodeOfEncodeIsTheInstruction: a memory operand with a padded length, and one at the longest length. -/
theorem witness_round_trip : vexM.wf c64 = true ∧ vexM.lenFits c64 = true ∧
    (Instr.punpcklbwXmm ⟨15, true⟩ 8 (.mem ⟨.gs, .a32, .gpr 8, some (9, 3), 0x7FFFFFFF⟩)).wf c64 = true ∧
    (Instr.punpcklbwXmm ⟨15, true⟩ 8 (.mem ⟨.gs, .a32, .gpr 8, some (9, 3), 0x7FFFFFFF⟩)).lenFits c64 = true := by
  decide

/-- DecodedInstructionsAreWellFormed. -/
theorem witness_decoded : decode c64 [0x66, 0x0F, 0x61, 0x16] =
    .instr (.punpcklwdXmm ⟨4, false⟩ 2 (.mem ⟨.ds, .a64, .gpr 6, none, 0⟩)) := by decide

/-- StepRunsTheDecodedInstruction: each clause. -/
theorem witness_step : (load base64 [0x0F, 0x60, 0xC1]).fetchFaults = false ∧
    decode (load base64 [0x0F, 0x60, 0xC1]).ctx (load base64 [0x0F, 0x60, 0xC1]).fetch = .instr mmxI ∧
    decode (load base64 [0x66, 0xC5, 0xF1]).ctx (load base64 [0x66, 0xC5, 0xF1]).fetch = .ud ∧
    decode (load base64 (List.replicate 15 0x66)).ctx (load base64 (List.replicate 15 0x66)).fetch = .gp ∧
    decode (load base64 [0x90]).ctx (load base64 [0x90]).fetch = .notInGroup ∧
    decode base64.ctx base64.fetch = .textEnds ∧
    ({ base64 with rip := 0x800000000000 } : State).fetchFaults = true := by decide

/-- StepRunsAnEncodingInTheText. -/
theorem witness_text : mmxI.wf (load base64 [0x0F, 0x60, 0xC1]).ctx = true ∧
    mmxI.lenFits (load base64 [0x0F, 0x60, 0xC1]).ctx = true ∧
    (load base64 [0x0F, 0x60, 0xC1]).fetchFaults = false ∧
    ∀ k, k < mmxI.enc.len → cellAt (load base64 [0x0F, 0x60, 0xC1]).text
      ((load base64 [0x0F, 0x60, 0xC1]).textAddr k) = (mmxI.encode (load base64 [0x0F, 0x60, 0xC1]).ctx)[k]? := by
  decide

/-- Every byte of a list is a legacy prefix. -/
def allPrefixes (c : Ctx) (ps : List Byte) : Bool := ps.all fun p => (Prefixes.empty.note c p).isSome

/-- NeighbouringEncodingsAreRefused: each clause, at the most prefixes it takes. -/
theorem witness_neighbours : allPrefixes c64 (0xF3 :: List.replicate 11 0x2E) = true ∧
    0xF3 ∈ (0xF3 :: List.replicate 11 0x2E : List Byte) ∧ c64.mode = .long64 ∧
    (0x48 : Byte).extractLsb' 4 4 = 4 ∧ (0xF3 :: List.replicate 11 (0x2E : Byte)).length + 1 + 2 = 15 ∧
    0x66 ∉ (0xF0 :: List.replicate 11 0x67 : List Byte) ∧ allPrefixes c64 (0xF0 :: List.replicate 11 0x67) = true ∧
    c32.mode ≠ .real ∧ c32.mode ≠ .v8086 ∧
    (∀ q ∈ List.replicate 12 (0x67 : Byte),
      (Prefixes.empty.note c32 q).isSome = true ∧ q ≠ 0xF0 ∧ q ≠ 0x66 ∧ q ≠ 0xF2 ∧ q ≠ 0xF3) ∧
    (0xF0 : Byte).extractLsb' 6 2 = 3 ∧ (0xF0 : Byte).extractLsb' 0 2 ≠ 1 ∧
    (0xE2 : Byte).extractLsb' 6 2 = 3 ∧ (0xE2 : Byte).extractLsb' 0 5 ≠ 1 ∧ (0x72 : Byte).extractLsb' 0 2 ≠ 1 ∧
    c32.mode ≠ .long64 ∧ (0xBF : Byte).extractLsb' 6 2 ≠ 3 := by decide

/-- BarredVexPrefixesAreUd: each barred byte with another prefix behind it, at the most bytes each length bound takes,
both ends of the REX range, and the two modes with an allowed prefix before the VEX prefix. -/
theorem witness_barred : allPrefixes c64 [0xF0, 0x2E, 0x66, 0xF2, 0xF3] = true ∧
    0xF0 ∈ ([0xF0, 0x2E, 0x66, 0xF2, 0xF3] : List Byte) ∧ 0x66 ∈ ([0xF0, 0x2E, 0x66, 0xF2, 0xF3] : List Byte) ∧
    0xF2 ∈ ([0xF0, 0x2E, 0x66, 0xF2, 0xF3] : List Byte) ∧ 0xF3 ∈ ([0xF0, 0x2E, 0x66, 0xF2, 0xF3] : List Byte) ∧
    ([0xF0, 0x2E, 0x66, 0xF2, 0xF3] : List Byte).length + 0 + (if (0xC4 : Byte) = 0xC4 then 10 else 9) = 15 ∧
    allPrefixes c64 (List.replicate 5 0x67) = true ∧ c64.mode = .long64 ∧ (0x40 : Byte).extractLsb' 4 4 = 4 ∧
    (0x4F : Byte).extractLsb' 4 4 = 4 ∧
    (List.replicate 5 (0x67 : Byte)).length + 1 + (if (0xC5 : Byte) = 0xC4 then 10 else 9) = 15 ∧
    allPrefixes c86 [0x2E] = true ∧ c86.mode = .v8086 ∧ (⟨.real, false⟩ : Ctx).mode = .real ∧
    (0xC0 : Byte).extractLsb' 6 2 = 3 := by decide

/-- OverlongInstructionsAreGp: the clauses with hypotheses, at 16 bytes where a length counts: a legacy form, a VEX
form behind `LOCK`, and a form that carries a 67 of its own. -/
theorem witness_overlong :
    decodeAll c64 (List.replicate 13 0x66 ++ [0x0F, 0x60, 0xC1]) = .instr (.punpcklbwXmm ⟨16, false⟩ 0 (.reg 1)) ∧
    mmxI.wf c64 = true ∧ mmxI.lenFits c64 = true ∧ allPrefixes c64 (List.replicate 13 0x66) = true ∧
    0xF2 ∉ List.replicate 13 (0x66 : Byte) ∧ 0xF3 ∉ List.replicate 13 (0x66 : Byte) ∧
    0x67 ∉ List.replicate 13 (0x66 : Byte) ∧ (List.replicate 13 (0x66 : Byte)).length + mmxI.enc.len = 16 ∧
    vexI.wf c64 = true ∧ vexI.lenFits c64 = true ∧ isVexForm vexI = true ∧
    allPrefixes c64 (List.replicate 12 0xF0) = true ∧ 0x67 ∉ List.replicate 12 (0xF0 : Byte) ∧
    (List.replicate 12 (0xF0 : Byte)).length + vexI.enc.len = 16 ∧
    (Instr.punpcklbwMm ⟨4, false⟩ 0 (.mem ⟨.ds, .a32, .gpr 0, none, 0⟩)).wf c64 = true ∧
    (Instr.punpcklbwMm ⟨4, false⟩ 0 (.mem ⟨.ds, .a32, .gpr 0, none, 0⟩)).lenFits c64 = true ∧
    memOperandOf (.punpcklbwMm ⟨4, false⟩ 0 (.mem ⟨.ds, .a32, .gpr 0, none, 0⟩)) =
      some (.mmx, ⟨.ds, .a32, .gpr 0, none, 0⟩, 4) ∧ c64.defaultAddr ≠ .a32 ∧
    allPrefixes c64 (List.replicate 12 0x67) = true ∧
    15 ≤ (List.replicate 15 (0x66 : Byte)).length ∧
    ∀ b ∈ (List.replicate 15 (0x66 : Byte)).take 15, (Prefixes.empty.note c64 b).isSome = true := by decide

/-- StraightOutOfReset: each class. -/
theorem witness_out_of_reset : mmxI.shape = .mmx 0 (.reg 1) ∧ mmxI.enc.lock = false ∧
    resetConfig.hasMmx = true ∧ ({ State.reset with config := resetConfig } : State).mmSrcOk 3 (.reg 1) = true ∧
    sseI.shape = .sse 8 (.reg 1) ∧ vexI.shape = .vex false 0 1 (.reg 2) := by decide

end Sys2Proof.Tests
end

/-! ## Frames and the invariant (spec/10_state.md R23, R27, R32, R35)

A completed form leaves one of two kinds of state: `State.mmxResult`, or one write of a whole vector register and
an advance of the instruction pointer (`State.vecResult`). What is unchanged is said once for each kind, and an
inversion lemma for each class says which of them `exec` leaves. -/

namespace Sys2Proof.Machine

/-! ### Reads after the updates that do not touch the register files -/

@[simp] theorem readMm_advance (s : State) (n : Nat) (j : Fin 8) : (s.advance n).readMm j = s.readMm j := rfl

@[simp] theorem readYmm_advance (s : State) (n : Nat) (j : Fin 16) : (s.advance n).readYmm j = s.readYmm j := rfl

@[simp] theorem readXmm_advance (s : State) (n : Nat) (j : Fin 16) : (s.advance n).readXmm j = s.readXmm j := rfl

@[simp] theorem readUpper_advance (s : State) (n : Nat) (j : Fin 16) :
    (s.advance n).readUpper j = s.readUpper j := rfl

@[simp] theorem readMm_x87SideEffects (s : State) (i j : Fin 8) : (s.x87SideEffects i).readMm j = s.readMm j := rfl

/-! ### The x87 side effects (R32) -/

/-- The mask of `State.x87SideEffects` clears bits 13:11. -/
theorem x87SideEffects_tos (s : State) (i : Fin 8) : (s.x87SideEffects i).x87Tos = 0 := by
  have hmask : (0xC7FF : BitVec 16).extractLsb 13 11 = 0 := by decide
  rw [State.x87Tos, x87SideEffects_x87Status, BitVec.extractLsb_and, hmask]
  exact BitVec.and_zero

/-- The mask of `State.x87SideEffects` keeps every bit of the status word outside 13:11. -/
theorem x87SideEffects_status_bit (s : State) (i : Fin 8) (k : Nat) (h11 : k ≠ 11) (h12 : k ≠ 12) (h13 : k ≠ 13) :
    (s.x87SideEffects i).x87Status.getLsbD k = s.x87Status.getLsbD k := by
  have hmask : ∀ k < 16, k ≠ 11 → k ≠ 12 → k ≠ 13 → (0xC7FF : BitVec 16).getLsbD k = true := by decide
  rw [x87SideEffects_x87Status, BitVec.getLsbD_and]
  by_cases hk : k < 16
  · rw [hmask k hk h11 h12 h13, Bool.and_true]
  · rw [BitVec.getLsbD_of_ge _ _ (by omega), Bool.false_and]

theorem x87SideEffects_high_same (s : State) (i : Fin 8) : (s.x87SideEffects i).x87High[i] = 0xFFFF := by
  simp

theorem x87SideEffects_high_other (s : State) (i j : Fin 8) (h : j ≠ i) :
    (s.x87SideEffects i).x87High[j] = s.x87High[j] := by
  have h' : i.val ≠ j.val := fun e => h (Fin.ext e.symm)
  simp [h']

/-! ### The two kinds of next state -/

/-- What a completed vector form leaves: one vector register written, the instruction pointer advanced. -/
def State.vecResult (s : State) (len : Nat) (d : Fin 16) (w : BitVec 256) : State := (s.writeYmm d w).advance len

theorem sseResult_eq_vecResult (s : State) (e : Enc) (d : Fin 16) (v : BitVec 128) :
    s.sseResult e d v = s.vecResult e.len d (s.readUpper d ++ v) := rfl

theorem vex128Result_eq_vecResult (s : State) (e : Enc) (d : Fin 16) (v : BitVec 128) :
    s.vex128Result e d v = s.vecResult e.len d (0#128 ++ v) := rfl

theorem vex256Result_eq_vecResult (s : State) (e : Enc) (d : Fin 16) (w : BitVec 256) :
    s.vex256Result e d w = s.vecResult e.len d w := rfl

/-- An MMX form writes nothing of the system state, the vector registers, or another MM register (R35). -/
theorem mmxResult_frame (s : State) (e : Enc) (d : Fin 8) (v : BitVec 64) :
    s.sameSystem (s.mmxResult e d v) ∧ (s.mmxResult e d v).ymm = s.ymm ∧
      ∀ j, j ≠ d → (s.mmxResult e d v).readMm j = s.readMm j := by
  refine ⟨by simp [State.sameSystem, State.mmxResult], rfl, fun j hj => ?_⟩
  rw [State.mmxResult, readMm_advance, readMm_x87SideEffects, readMm_writeMm_other s d j v hj]

/-- A vector form writes nothing of the system state, the x87 state, the MM registers, or another vector register
(R35). -/
theorem vecResult_frame (s : State) (len : Nat) (d : Fin 16) (w : BitVec 256) :
    s.sameSystem (s.vecResult len d w) ∧ s.sameX87 (s.vecResult len d w) ∧ (s.vecResult len d w).mm = s.mm ∧
      ∀ j, j ≠ d → (s.vecResult len d w).readYmm j = s.readYmm j := by
  refine ⟨by simp [State.sameSystem, State.vecResult], by simp [State.sameX87, State.vecResult], rfl,
    fun j hj => ?_⟩
  rw [State.vecResult, readYmm_advance, readYmm_writeYmm_other s d j w hj]

/-- The two halves of the destination of a legacy SSE2 form (R23). -/
theorem sseResult_halves (s : State) (e : Enc) (d : Fin 16) (v : BitVec 128) :
    (s.sseResult e d v).readXmm d = v ∧ (s.sseResult e d v).readUpper d = s.readUpper d := by
  obtain ⟨hlow, hhigh, _⟩ := writeXmmKeep_spec s d v
  exact ⟨hlow, hhigh⟩

/-- The two halves of the destination of a VEX.128 form (R23). -/
theorem vex128Result_halves (s : State) (e : Enc) (d : Fin 16) (v : BitVec 128) :
    (s.vex128Result e d v).readXmm d = v ∧ (s.vex128Result e d v).readUpper d = 0 := by
  obtain ⟨hlow, hhigh, _⟩ := writeXmmZero_spec s d v
  exact ⟨hlow, hhigh⟩

/-! ### What a completed form has done -/

theorem takeException_ne_next (x : Exception) (s t : State) : takeException x s ≠ .next t := by
  obtain ⟨f, hf, _⟩ := takeException_fault x s
  simp [hf]

theorem stop_outcome_ne_next (x : Stop) (s t : State) : x.outcome s ≠ .next t := by
  rcases stop_outcome s x with ⟨f, hf, _⟩ | ⟨r, hr⟩
  · simp [hf]
  · simp [hr]

/-- A completed MMX form has read its second source and left `State.mmxResult` (R120). -/
theorem mmxForm_next {f : BitVec 64 → BitVec 64 → BitVec 64} {e : Enc} {d : Fin 8} {src : RegMem 8} {s t : State}
    (h : mmxForm f e d src s = .next t) :
    ∃ v, s.mmSource e.len src = .ok v ∧ t = s.mmxResult e d (f (s.readMm d) v) := by
  rcases mmxForm_cases f e d src s with ⟨_, he⟩ | ⟨_, _, he⟩ | ⟨_, _, _, he⟩ |
    ⟨_, _, _, ⟨x, _, he⟩ | ⟨v, hv, he⟩⟩ <;> rw [he] at h
  · exact absurd h (takeException_ne_next _ s t)
  · exact absurd h (takeException_ne_next _ s t)
  · exact absurd h (takeException_ne_next _ s t)
  · exact absurd h (stop_outcome_ne_next x s t)
  · cases h
    exact ⟨v, hv, rfl⟩

/-- A completed legacy SSE2 form has read its second source and left `State.sseResult` (R130). -/
theorem sseForm_next {f : BitVec 128 → BitVec 128 → BitVec 128} {e : Enc} {d : Fin 16} {src : RegMem 16}
    {s t : State} (h : sseForm f e d src s = .next t) :
    ∃ v, s.xmmSource .sse e.len src = .ok v ∧ t = s.sseResult e d (f (s.readXmm d) v) := by
  rcases sseForm_cases f e d src s with ⟨_, he⟩ | ⟨_, _, he⟩ |
    ⟨_, _, ⟨x, _, he⟩ | ⟨v, hv, he⟩⟩ <;> rw [he] at h
  · exact absurd h (takeException_ne_next _ s t)
  · exact absurd h (takeException_ne_next _ s t)
  · exact absurd h (stop_outcome_ne_next x s t)
  · cases h
    exact ⟨v, hv, rfl⟩

/-- A completed VEX.128 form has read its second source and left `State.vex128Result` (R140). -/
theorem vex128Form_next {f : BitVec 128 → BitVec 128 → BitVec 128} {e : Enc} {d a : Fin 16} {src : RegMem 16}
    {s t : State} (h : vex128Form f e d a src s = .next t) :
    ∃ v, s.xmmSource .vex e.len src = .ok v ∧ t = s.vex128Result e d (f (s.readXmm a) v) := by
  rcases vex128Form_cases f e d a src s with ⟨_, he⟩ | ⟨_, _, he⟩ |
    ⟨_, _, ⟨x, _, he⟩ | ⟨v, hv, he⟩⟩ <;> rw [he] at h
  · exact absurd h (takeException_ne_next _ s t)
  · exact absurd h (takeException_ne_next _ s t)
  · exact absurd h (stop_outcome_ne_next x s t)
  · cases h
    exact ⟨v, hv, rfl⟩

/-- A completed VEX.256 form has read its second source and left `State.vex256Result` (R150). -/
theorem vex256Form_next {f : BitVec 256 → BitVec 256 → BitVec 256} {e : Enc} {d a : Fin 16} {src : RegMem 16}
    {s t : State} (h : vex256Form f e d a src s = .next t) :
    ∃ v, s.ymmSource e.len src = .ok v ∧ t = s.vex256Result e d (f (s.readYmm a) v) := by
  rcases vex256Form_cases f e d a src s with ⟨_, he⟩ | ⟨_, _, he⟩ |
    ⟨_, _, ⟨x, _, he⟩ | ⟨v, hv, he⟩⟩ <;> rw [he] at h
  · exact absurd h (takeException_ne_next _ s t)
  · exact absurd h (takeException_ne_next _ s t)
  · exact absurd h (stop_outcome_ne_next x s t)
  · cases h
    exact ⟨v, hv, rfl⟩

/-! ### From an instruction's class to its common execution -/

theorem exec_of_shape_mmx {i : Instr} {d : Fin 8} {src : RegMem 8} (h : i.shape = .mmx d src) :
    ∃ f, ∀ s, exec i s = mmxForm f i.enc d src s := by
  cases i <;> cases h <;> exact ⟨_, fun _ => rfl⟩

theorem exec_of_shape_sse {i : Instr} {d : Fin 16} {src : RegMem 16} (h : i.shape = .sse d src) :
    ∃ f, ∀ s, exec i s = sseForm f i.enc d src s := by
  cases i <;> cases h <;> exact ⟨_, fun _ => rfl⟩

theorem exec_of_shape_vex128 {i : Instr} {d a : Fin 16} {src : RegMem 16} (h : i.shape = .vex false d a src) :
    ∃ f, ∀ s, exec i s = vex128Form f i.enc d a src s := by
  cases i <;> cases h <;> exact ⟨_, fun _ => rfl⟩

theorem exec_of_shape_vex256 {i : Instr} {d a : Fin 16} {src : RegMem 16} (h : i.shape = .vex true d a src) :
    ∃ f, ∀ s, exec i s = vex256Form f i.enc d a src s := by
  cases i <;> cases h <;> exact ⟨_, fun _ => rfl⟩

theorem exec_mmx_next {i : Instr} {d : Fin 8} {src : RegMem 8} {s t : State} (hi : i.shape = .mmx d src)
    (h : exec i s = .next t) : ∃ v, t = s.mmxResult i.enc d v := by
  obtain ⟨f, hf⟩ := exec_of_shape_mmx hi
  obtain ⟨v, _, ht⟩ := mmxForm_next (hf s ▸ h)
  exact ⟨_, ht⟩

theorem exec_sse_next {i : Instr} {d : Fin 16} {src : RegMem 16} {s t : State} (hi : i.shape = .sse d src)
    (h : exec i s = .next t) : ∃ v, t = s.sseResult i.enc d v := by
  obtain ⟨f, hf⟩ := exec_of_shape_sse hi
  obtain ⟨v, _, ht⟩ := sseForm_next (hf s ▸ h)
  exact ⟨_, ht⟩

theorem exec_vex128_next {i : Instr} {d a : Fin 16} {src : RegMem 16} {s t : State}
    (hi : i.shape = .vex false d a src) (h : exec i s = .next t) : ∃ v, t = s.vex128Result i.enc d v := by
  obtain ⟨f, hf⟩ := exec_of_shape_vex128 hi
  obtain ⟨v, _, ht⟩ := vex128Form_next (hf s ▸ h)
  exact ⟨_, ht⟩

theorem exec_vex256_next {i : Instr} {d a : Fin 16} {src : RegMem 16} {s t : State}
    (hi : i.shape = .vex true d a src) (h : exec i s = .next t) : ∃ w, t = s.vex256Result i.enc d w := by
  obtain ⟨f, hf⟩ := exec_of_shape_vex256 hi
  obtain ⟨v, _, ht⟩ := vex256Form_next (hf s ▸ h)
  exact ⟨_, ht⟩

/-- Whatever instruction has completed, the next state is of one of the two kinds. -/
theorem exec_next_cases {i : Instr} {s t : State} (h : exec i s = .next t) :
    (∃ d v, t = s.mmxResult i.enc d v) ∨ ∃ d w, t = s.vecResult i.enc.len d w := by
  cases hi : i.shape with
  | mmx d src => exact .inl ⟨d, exec_mmx_next hi h⟩
  | sse d src =>
    obtain ⟨v, rfl⟩ := exec_sse_next hi h
    exact .inr ⟨d, _, sseResult_eq_vecResult s i.enc d v⟩
  | vex l d a src =>
    cases l with
    | false =>
      obtain ⟨v, rfl⟩ := exec_vex128_next hi h
      exact .inr ⟨d, _, vex128Result_eq_vecResult s i.enc d v⟩
    | true =>
      obtain ⟨w, rfl⟩ := exec_vex256_next hi h
      exact .inr ⟨d, _, vex256Result_eq_vecResult s i.enc d w⟩

/-! ### What every completed instruction keeps -/

theorem exec_next_sameSystem {i : Instr} {s t : State} (h : exec i s = .next t) : s.sameSystem t := by
  rcases exec_next_cases h with ⟨d, v, rfl⟩ | ⟨d, w, rfl⟩
  · exact (mmxResult_frame s i.enc d v).1
  · exact (vecResult_frame s i.enc.len d w).1

theorem exec_next_rip {i : Instr} {s t : State} (h : exec i s = .next t) :
    t.rip = truncTo s.codeSize (s.rip + BitVec.ofNat 64 i.enc.len) := by
  rcases exec_next_cases h with ⟨d, v, rfl⟩ | ⟨d, w, rfl⟩
  · simp [State.mmxResult]
  · simp [State.vecResult]

/-- The memory is unchanged as a list and not only byte by byte, which `Memory.wf` needs. -/
theorem exec_next_mem {i : Instr} {s t : State} (h : exec i s = .next t) : t.mem = s.mem := by
  rcases exec_next_cases h with ⟨d, v, rfl⟩ | ⟨d, w, rfl⟩
  · simp [State.mmxResult]
  · simp [State.vecResult]

/-- After a completed instruction the x87 state is either as an MMX form leaves it or as it was. -/
theorem exec_next_x87 {i : Instr} {s t : State} (h : exec i s = .next t) :
    (t.x87Tag = 0 ∧ t.x87Tos = 0) ∨ s.sameX87 t := by
  rcases exec_next_cases h with ⟨d, v, rfl⟩ | ⟨d, w, rfl⟩
  · exact .inl ⟨rfl, x87SideEffects_tos (s.writeMm d v) d⟩
  · exact .inr (vecResult_frame s i.enc.len d w).2.1

/-! ### What the system state determines -/

/-- The operating mode and what is computed from it depend on the system state alone (log 4). -/
theorem sameSystem_computed {s t : State} (h : s.sameSystem t) :
    t.mode = s.mode ∧ t.ctx = s.ctx ∧ t.alignCheck = s.alignCheck := by
  obtain ⟨_, _, _, heflags, _, hcs, _, _, _, _, hcpl, hcr0, _, _, _, hefer, _, _⟩ := h
  have hmode : t.mode = s.mode := by
    unfold State.mode State.pe State.lma State.vm
    rw [hcr0, hefer, heflags, hcs]
  refine ⟨hmode, by rw [State.ctx, State.ctx, hmode, hcs], ?_⟩
  simp only [State.alignCheck, State.am, State.acFlag, State.user, hcr0, heflags, hcpl]

theorem sameSystem_codeSize {s t : State} (h : s.sameSystem t) : t.codeSize = s.codeSize := by
  obtain ⟨_, hctx, _⟩ := sameSystem_computed h
  rw [State.codeSize, State.codeSize, hctx]

theorem sameSystem_text {s t : State} (h : s.sameSystem t) : t.text = s.text := by
  obtain ⟨_, _, _, _, _, _, _, _, _, _, _, _, _, _, _, _, htext, _⟩ := h
  exact htext

/-! ### The invariant -/

/-- The advanced instruction pointer fits the width of the code, which the instruction has not changed (R27). -/
theorem exec_next_pcFits {i : Instr} {s t : State} (h : exec i s = .next t) : t.pcFits := by
  rw [State.pcFits, sameSystem_codeSize (exec_next_sameSystem h), exec_next_rip h, truncTo_idem]

/-- Every completed instruction keeps the invariant. -/
theorem exec_next_inv {i : Instr} {s t : State} (hs : s.Inv) (h : exec i s = .next t) : t.Inv := by
  obtain ⟨hmem, htext, _, hx87⟩ := hs
  refine ⟨by rwa [exec_next_mem h], by rwa [sameSystem_text (exec_next_sameSystem h)], exec_next_pcFits h, ?_⟩
  rcases exec_next_x87 h with hclean | ⟨hstatus, htag, _, hdirty⟩
  · exact fun _ => hclean
  · rw [hdirty, htag, State.x87Tos, hstatus]
    exact hx87

/-! ### The VEX.128 form beside the legacy form -/

/-- The bytes of a completed read do not depend on the class of the form, which chooses checks only (R58). -/
theorem memRead_ok_bytes {s : State} {c : OpClass} {g : Seg} {ea : Word} {n : Nat} {bs : List Byte}
    (h : s.memRead c g ea n = .ok bs) : bs = (s.operandBytes g ea n).take (s.fetchedBytes n) := by
  rcases memRead_cases s c g ea n with ⟨_, hok⟩ | ⟨_, herr⟩
  · exact Except.ok.inj (h.symm.trans hok)
  · simp [h] at herr

/-- Two classes that both complete the read of one source read the same value. -/
theorem xmmSource_ok_unique {s : State} {c c' : OpClass} {len : Nat} {src : RegMem 16} {v v' : BitVec 128}
    (h : s.xmmSource c len src = .ok v) (h' : s.xmmSource c' len src = .ok v') : v = v' := by
  cases src with
  | reg r =>
    cases h
    cases h'
    rfl
  | mem m =>
    simp only [State.xmmSource, State.readMem] at h h'
    split at h
    · cases h
    · next bs hbs =>
      split at h'
      · cases h'
      · next bs' hbs' =>
        cases h
        cases h'
        rw [memRead_ok_bytes hbs, memRead_ok_bytes hbs']

/-- With one interleave function and one first source, the two forms leave the same low half; each treats the high
half in its own way (R23, spec/70_reset_and_hazards.md R196 (b)). -/
theorem vex128Form_sseForm_agree (f : BitVec 128 → BitVec 128 → BitVec 128) {e : Enc} {d : Fin 16}
    {src : RegMem 16} {s t u : State} (ht : vex128Form f e d d src s = .next t)
    (hu : sseForm f e d src s = .next u) :
    t.readXmm d = u.readXmm d ∧ t.readUpper d = 0 ∧ u.readUpper d = s.readUpper d := by
  obtain ⟨v, hv, rfl⟩ := vex128Form_next ht
  obtain ⟨v', hv', rfl⟩ := sseForm_next hu
  cases xmmSource_ok_unique hv hv'
  obtain ⟨htlow, hthigh⟩ := vex128Result_halves s e d (f (s.readXmm d) v)
  obtain ⟨hulow, huhigh⟩ := sseResult_halves s e d (f (s.readXmm d) v)
  exact ⟨htlow.trans hulow.symm, hthigh, huhigh⟩

/-! ### The statements -/

/-- Settles O32: a completed step has run one decoded instruction, and every instruction keeps the invariant. -/
theorem stepKeepsInvariant : Obligations.StepKeepsInvariant := by
  intro s t hs h
  obtain ⟨i, _, hi⟩ := step_next h
  exact exec_next_inv hs hi

/-- Settles O25. -/
theorem mmxFormsFrame : Obligations.MmxFormsFrame := by
  intro i d src s t hi h
  obtain ⟨v, rfl⟩ := exec_mmx_next hi h
  obtain ⟨hsys, hymm, hmm⟩ := mmxResult_frame s i.enc d v
  exact ⟨hsys, hymm, hmm, x87SideEffects_tos (s.writeMm d v) d, x87SideEffects_status_bit (s.writeMm d v) d, rfl,
    x87SideEffects_high_same (s.writeMm d v) d, x87SideEffects_high_other (s.writeMm d v) d, rfl⟩

/-- Settles O26. -/
theorem sseFormsFrame : Obligations.SseFormsFrame := by
  intro i d src s t hi h
  obtain ⟨v, rfl⟩ := exec_sse_next hi h
  obtain ⟨_, hupper⟩ := sseResult_halves s i.enc d v
  obtain ⟨hsys, hx87, hmm, hymm⟩ := vecResult_frame s i.enc.len d (s.readUpper d ++ v)
  rw [sseResult_eq_vecResult] at hupper ⊢
  exact ⟨hsys, hx87, hmm, hupper, hymm⟩

/-- Settles O27. -/
theorem vex128FormsFrame : Obligations.Vex128FormsFrame := by
  intro i d a src s t hi h
  obtain ⟨v, rfl⟩ := exec_vex128_next hi h
  obtain ⟨_, hupper⟩ := vex128Result_halves s i.enc d v
  obtain ⟨hsys, hx87, hmm, hymm⟩ := vecResult_frame s i.enc.len d (0#128 ++ v)
  rw [vex128Result_eq_vecResult] at hupper ⊢
  exact ⟨hsys, hx87, hmm, hupper, hymm⟩

/-- Settles O28. -/
theorem vex256FormsFrame : Obligations.Vex256FormsFrame := by
  intro i d a src s t hi h
  obtain ⟨w, rfl⟩ := exec_vex256_next hi h
  rw [vex256Result_eq_vecResult]
  exact vecResult_frame s i.enc.len d w

/-- Settles O29: mode and the conditions of the statement are computed from the system state. -/
theorem stepChangesNoSystemState : Obligations.StepChangesNoSystemState := by
  intro s t h
  obtain ⟨i, _, hi⟩ := step_next h
  have hsys := exec_next_sameSystem hi
  exact ⟨hsys, sameSystem_computed hsys⟩

/-- Settles O30. -/
theorem completedFormsAdvanceThePc : Obligations.CompletedFormsAdvanceThePc :=
  fun _ _ _ h => exec_next_rip h

/-- Settles O48: each width is the same argument with its own interleave function. -/
theorem vexAndLegacyFormsAgreeBelow128 : Obligations.VexAndLegacyFormsAgreeBelow128 := by
  intro e d src s t u
  exact ⟨fun ht hu => vex128Form_sseForm_agree interleaveBytes ht hu,
    fun ht hu => vex128Form_sseForm_agree interleaveWords ht hu,
    fun ht hu => vex128Form_sseForm_agree interleaveDwords ht hu,
    fun ht hu => vex128Form_sseForm_agree interleaveQwords ht hu⟩

end Sys2Proof.Machine

/-! ## Memory operands (spec/20_memory.md R41 to R47, R58)

`exec` first raises what R172 puts before the operand's own checks (`State.earlyFault`), then reads its second
source; `exec_cases` says for every instruction what follows from each. -/

namespace Sys2Proof.Machine

/-! ### The read primitive -/

theorem memRead_misaligned {s : State} {c : OpClass} {g : Seg} {ea : Word} {n : Nat}
    (h : s.misaligned c g ea n = true) : s.memRead c g ea n = .error (.raise .gp) := by
  simp [State.memRead, h]

/-- The read is refused exactly when every fault check passes and an address is outside ordinary memory (R47). -/
theorem memRead_refuse_iff {s : State} {c : OpClass} {g : Seg} {ea : Word} {n : Nat} {r : Refusal} :
    s.memRead c g ea n = .error (.refuse r) ↔
      r = .notOrdinaryMemory ∧ s.misaligned c g ea n = false ∧ s.alignTrap c g ea = false ∧
        ∃ as, s.translate g ea n = .ok as ∧ as.all (ordinaryAt s.config.ordinary) = false := by
  cases hm : s.misaligned c g ea n with
  | true => simp [memRead_misaligned hm]
  | false =>
    cases ht : s.translate g ea n with
    | error x => simp [State.memRead, hm, ht]
    | ok as =>
      cases htrap : s.alignTrap c g ea with
      | true => simp [State.memRead, hm, ht, htrap]
      | false =>
        cases hord : as.all (ordinaryAt s.config.ordinary) <;>
          simp [State.memRead, hm, ht, htrap, hord, @eq_comm _ r, -List.all_eq_true, -List.all_eq_false]

/-- A completed read has one translated address for each byte of the operand, and its bytes are those listed there. -/
theorem memRead_ok_addresses {s : State} {c : OpClass} {g : Seg} {ea : Word} {n : Nat} {bs : List Byte}
    (h : s.memRead c g ea n = .ok bs) :
    ∃ as, s.translate g ea n = .ok as ∧ as.length = n ∧ bs = (as.map (byteAt s.mem)).take (s.fetchedBytes n) := by
  cases ht : s.translate g ea n with
  | error x =>
    cases hm : s.misaligned c g ea n <;> simp [State.memRead, hm, ht] at h
  | ok as =>
    have hbs := memRead_ok_bytes h
    have hlen : as.length = n := by simpa [ht] using translate_cases s g ea n
    exact ⟨as, rfl, hlen, by simpa [State.operandBytes, ht] using hbs⟩

/-! ### Little-endian values (R42) -/

theorem leNat_lt (bs : List Byte) : leNat bs < 256 ^ bs.length := by
  induction bs with
  | nil => simp [leNat]
  | cons b r ih =>
    have hb : b.toNat < 256 := b.isLt
    simp only [leNat, List.length_cons, Nat.pow_succ']
    omega

theorem leNat_div_mod (bs : List Byte) (k : Nat) : leNat bs / 256 ^ k % 256 = (bs.getD k 0).toNat := by
  induction bs generalizing k with
  | nil => simp [leNat]
  | cons b r ih =>
    have hb : b.toNat < 256 := b.isLt
    cases k with
    | zero => simp only [leNat, Nat.pow_zero, List.getD_cons_zero]; omega
    | succ k =>
      have hdiv : (b.toNat + 256 * leNat r) / 256 = leNat r := by omega
      rw [leNat, Nat.pow_succ', ← Nat.div_div_eq_div_mul, hdiv, ih, List.getD_cons_succ]

/-- Byte `k` of a little-endian value is bits `8k+7:8k`. -/
theorem extractLsb'_ofNat_leNat (w : Nat) (bs : List Byte) (k : Nat) (hk : 8 * k + 8 ≤ w) :
    (BitVec.ofNat w (leNat bs)).extractLsb' (8 * k) 8 = bs.getD k 0 := by
  have hpow : 256 ^ k = 2 ^ (8 * k) := by rw [Nat.pow_mul]
  apply BitVec.eq_of_toNat_eq
  rw [← leNat_div_mod, hpow, BitVec.extractLsb'_toNat, BitVec.toNat_ofNat, Nat.shiftRight_eq_div_pow]
  obtain ⟨j, rfl⟩ := Nat.exists_eq_add_of_le hk
  rw [Nat.add_assoc, Nat.pow_add, Nat.mod_mul_right_div_self, Nat.pow_add, Nat.mod_mul_right_mod]

/-- An m32 leaves the upper half of a 64-bit source 0 (R41). -/
theorem extractLsb'_high_ofNat_leNat {bs : List Byte} (h : bs.length ≤ 4) :
    (BitVec.ofNat 64 (leNat bs)).extractLsb' 32 32 = 0 := by
  have hlt : leNat bs < 256 ^ 4 := (leNat_lt bs).trans_le (Nat.pow_le_pow_right (by omega) h)
  apply BitVec.eq_of_toNat_eq
  simp only [BitVec.extractLsb'_toNat, BitVec.toNat_ofNat, Nat.shiftRight_eq_div_pow, BitVec.ofNat_eq_ofNat]
  omega

/-- Byte `k` of a completed read stands at the `k`-th translated address, for the bytes that are fetched. -/
theorem extractLsb'_ofNat_leNat_read (w : Nat) {as : List Nat} {mem : Memory} {l k : Nat} (hw : 8 * k + 8 ≤ w)
    (hl : k < l) (hk : k < as.length) :
    (BitVec.ofNat w (leNat ((as.map (byteAt mem)).take l))).extractLsb' (8 * k) 8 = byteAt mem (as.getD k 0) := by
  rw [extractLsb'_ofNat_leNat w _ k hw]
  simp [List.getD_eq_getElem?_getD, hl, hk]

/-! ### The second source -/

theorem mmSource_mem_ok {s : State} {len : Nat} {m : MemOp} {v : BitVec 64} (h : s.mmSource len (.mem m) = .ok v) :
    ∃ bs, s.readMem .mmx len m 4 = .ok bs ∧ v = BitVec.ofNat 64 (leNat bs) := by
  simp only [State.mmSource] at h
  split at h
  · cases h
  · next bs hbs => cases h; exact ⟨bs, hbs, rfl⟩

theorem xmmSource_mem_ok {s : State} {c : OpClass} {len : Nat} {m : MemOp} {v : BitVec 128}
    (h : s.xmmSource c len (.mem m) = .ok v) :
    ∃ bs, s.readMem c len m 16 = .ok bs ∧ v = BitVec.ofNat 128 (leNat bs) := by
  simp only [State.xmmSource] at h
  split at h
  · cases h
  · next bs hbs => cases h; exact ⟨bs, hbs, rfl⟩

theorem ymmSource_mem_ok {s : State} {len : Nat} {m : MemOp} {v : BitVec 256}
    (h : s.ymmSource len (.mem m) = .ok v) :
    ∃ bs, s.readMem .vex len m 32 = .ok bs ∧ v = BitVec.ofNat 256 (leNat bs) := by
  simp only [State.ymmSource] at h
  split at h
  · cases h
  · next bs hbs => cases h; exact ⟨bs, hbs, rfl⟩

theorem mmSource_error_iff {s : State} {len : Nat} {src : RegMem 8} {x : Stop} :
    s.mmSource len src = .error x ↔ ∃ m, src = .mem m ∧ s.readMem .mmx len m 4 = .error x := by
  cases src with
  | reg r => simp [State.mmSource]
  | mem m => cases hr : s.readMem .mmx len m 4 <;> simp [State.mmSource, hr]

theorem xmmSource_error_iff {s : State} {c : OpClass} {len : Nat} {src : RegMem 16} {x : Stop} :
    s.xmmSource c len src = .error x ↔ ∃ m, src = .mem m ∧ s.readMem c len m 16 = .error x := by
  cases src with
  | reg r => simp [State.xmmSource]
  | mem m => cases hr : s.readMem c len m 16 <;> simp [State.xmmSource, hr]

theorem ymmSource_error_iff {s : State} {len : Nat} {src : RegMem 16} {x : Stop} :
    s.ymmSource len src = .error x ↔ ∃ m, src = .mem m ∧ s.readMem .vex len m 32 = .error x := by
  cases src with
  | reg r => simp [State.ymmSource]
  | mem m => cases hr : s.readMem .vex len m 32 <;> simp [State.ymmSource, hr]

/-! ### What every instruction does with its source -/

/-- The fault that comes before the operand's own checks, in the order of spec/60_exceptions.md R172. -/
def State.earlyFault (s : State) (i : Instr) : Option Exception :=
  if s.udFor i then some .ud
  else if s.ts then some .nm
  else if isMmxForm i && s.x87Pending then some .mf
  else none

theorem earlyFault_eq_none_iff {s : State} {i : Instr} :
    s.earlyFault i = none ↔
      s.udFor i = false ∧ s.ts = false ∧ (isMmxForm i = true → s.x87Pending = false) := by
  unfold State.earlyFault
  cases s.udFor i <;> cases s.ts <;> simp

theorem earlyFault_mmx {s : State} {i : Instr} {d : Fin 8} {src : RegMem 8} (hi : i.shape = .mmx d src) :
    s.earlyFault i =
      if s.mmxUd i.enc then some .ud else if s.ts then some .nm else if s.x87Pending then some .mf else none := by
  simp [State.earlyFault, State.udFor, State.mmxUd, isMmxForm, shapeFeatured, shapeControlled, hi]

theorem earlyFault_sse {s : State} {i : Instr} {d : Fin 16} {src : RegMem 16} (hi : i.shape = .sse d src) :
    s.earlyFault i = if s.sseUd i.enc then some .ud else if s.ts then some .nm else none := by
  simp [State.earlyFault, State.udFor, State.sseUd, isMmxForm, shapeFeatured, shapeControlled, hi, or_assoc]

theorem earlyFault_vex128 {s : State} {i : Instr} {d a : Fin 16} {src : RegMem 16}
    (hi : i.shape = .vex false d a src) :
    s.earlyFault i = if s.vex128Ud i.enc then some .ud else if s.ts then some .nm else none := by
  simp [State.earlyFault, State.udFor, State.vex128Ud, State.vexUd, isMmxForm, shapeFeatured, shapeControlled, hi]

theorem earlyFault_vex256 {s : State} {i : Instr} {d a : Fin 16} {src : RegMem 16}
    (hi : i.shape = .vex true d a src) :
    s.earlyFault i = if s.vex256Ud i.enc then some .ud else if s.ts then some .nm else none := by
  simp [State.earlyFault, State.udFor, State.vex256Ud, State.vexUd, isMmxForm, shapeFeatured, shapeControlled, hi]

/-- The instruction has a memory operand, and its read stops with `x`. -/
def State.sourceStops (s : State) (i : Instr) (x : Stop) : Prop :=
  ∃ c m n, memOperandOf i = some (c, m, n) ∧ s.readMem c i.enc.len m n = .error x

theorem sourceStops_mmx {s : State} {i : Instr} {d : Fin 8} {src : RegMem 8} {x : Stop}
    (hi : i.shape = .mmx d src) : s.sourceStops i x ↔ s.mmSource i.enc.len src = .error x := by
  rw [mmSource_error_iff]
  cases src <;> simp [State.sourceStops, memOperandOf, hi]

theorem sourceStops_sse {s : State} {i : Instr} {d : Fin 16} {src : RegMem 16} {x : Stop}
    (hi : i.shape = .sse d src) : s.sourceStops i x ↔ s.xmmSource .sse i.enc.len src = .error x := by
  rw [xmmSource_error_iff]
  cases src <;> simp [State.sourceStops, memOperandOf, hi]

theorem sourceStops_vex128 {s : State} {i : Instr} {d a : Fin 16} {src : RegMem 16} {x : Stop}
    (hi : i.shape = .vex false d a src) : s.sourceStops i x ↔ s.xmmSource .vex i.enc.len src = .error x := by
  rw [xmmSource_error_iff]
  cases src <;> simp [State.sourceStops, memOperandOf, hi]

theorem sourceStops_vex256 {s : State} {i : Instr} {d a : Fin 16} {src : RegMem 16} {x : Stop}
    (hi : i.shape = .vex true d a src) : s.sourceStops i x ↔ s.ymmSource i.enc.len src = .error x := by
  rw [ymmSource_error_iff]
  cases src <;> simp [State.sourceStops, memOperandOf, hi]

/-- The three ways an instruction ends: a fault that comes before the operand's checks, a stop of the read of its
memory operand, or a next state. -/
inductive ExecCases (i : Instr) (s : State) : Prop where
  | raised (x : Exception) (hearly : s.earlyFault i = some x) (he : exec i s = takeException x s)
  | stopped (x : Stop) (hearly : s.earlyFault i = none) (hstop : s.sourceStops i x) (he : exec i s = x.outcome s)
  | completed (t : State) (hearly : s.earlyFault i = none) (hread : ∀ x, ¬ s.sourceStops i x)
      (he : exec i s = .next t)

theorem execCases_mmx {i : Instr} {d : Fin 8} {src : RegMem 8} (hi : i.shape = .mmx d src) (s : State) :
    ExecCases i s := by
  obtain ⟨f, hf⟩ := exec_of_shape_mmx hi
  have hearly := earlyFault_mmx (s := s) hi
  rcases mmxForm_cases f i.enc d src s with ⟨hu, he⟩ | ⟨hu, ht, he⟩ | ⟨hu, ht, hp, he⟩ |
    ⟨hu, ht, hp, ⟨x, hx, he⟩ | ⟨v, hv, he⟩⟩ <;> rw [← hf s] at he
  · exact .raised .ud (by simp [hearly, hu]) he
  · exact .raised .nm (by simp [hearly, hu, ht]) he
  · exact .raised .mf (by simp [hearly, hu, ht, hp]) he
  · exact .stopped x (by simp [hearly, hu, ht, hp]) ((sourceStops_mmx hi).2 hx) he
  · exact .completed _ (by simp [hearly, hu, ht, hp]) (fun x => by simp [sourceStops_mmx hi, hv]) he

theorem execCases_sse {i : Instr} {d : Fin 16} {src : RegMem 16} (hi : i.shape = .sse d src) (s : State) :
    ExecCases i s := by
  obtain ⟨f, hf⟩ := exec_of_shape_sse hi
  have hearly := earlyFault_sse (s := s) hi
  rcases sseForm_cases f i.enc d src s with ⟨hu, he⟩ | ⟨hu, ht, he⟩ |
    ⟨hu, ht, ⟨x, hx, he⟩ | ⟨v, hv, he⟩⟩ <;> rw [← hf s] at he
  · exact .raised .ud (by simp [hearly, hu]) he
  · exact .raised .nm (by simp [hearly, hu, ht]) he
  · exact .stopped x (by simp [hearly, hu, ht]) ((sourceStops_sse hi).2 hx) he
  · exact .completed _ (by simp [hearly, hu, ht]) (fun x => by simp [sourceStops_sse hi, hv]) he

theorem execCases_vex128 {i : Instr} {d a : Fin 16} {src : RegMem 16} (hi : i.shape = .vex false d a src)
    (s : State) : ExecCases i s := by
  obtain ⟨f, hf⟩ := exec_of_shape_vex128 hi
  have hearly := earlyFault_vex128 (s := s) hi
  rcases vex128Form_cases f i.enc d a src s with ⟨hu, he⟩ | ⟨hu, ht, he⟩ |
    ⟨hu, ht, ⟨x, hx, he⟩ | ⟨v, hv, he⟩⟩ <;> rw [← hf s] at he
  · exact .raised .ud (by simp [hearly, hu]) he
  · exact .raised .nm (by simp [hearly, hu, ht]) he
  · exact .stopped x (by simp [hearly, hu, ht]) ((sourceStops_vex128 hi).2 hx) he
  · exact .completed _ (by simp [hearly, hu, ht]) (fun x => by simp [sourceStops_vex128 hi, hv]) he

theorem execCases_vex256 {i : Instr} {d a : Fin 16} {src : RegMem 16} (hi : i.shape = .vex true d a src)
    (s : State) : ExecCases i s := by
  obtain ⟨f, hf⟩ := exec_of_shape_vex256 hi
  have hearly := earlyFault_vex256 (s := s) hi
  rcases vex256Form_cases f i.enc d a src s with ⟨hu, he⟩ | ⟨hu, ht, he⟩ |
    ⟨hu, ht, ⟨x, hx, he⟩ | ⟨v, hv, he⟩⟩ <;> rw [← hf s] at he
  · exact .raised .ud (by simp [hearly, hu]) he
  · exact .raised .nm (by simp [hearly, hu, ht]) he
  · exact .stopped x (by simp [hearly, hu, ht]) ((sourceStops_vex256 hi).2 hx) he
  · exact .completed _ (by simp [hearly, hu, ht]) (fun x => by simp [sourceStops_vex256 hi, hv]) he

/-- What `exec` does with any instruction, once. -/
theorem exec_cases (i : Instr) (s : State) : ExecCases i s := by
  cases hi : i.shape with
  | mmx d src => exact execCases_mmx hi s
  | sse d src => exact execCases_sse hi s
  | vex l d a src =>
    cases l with
    | false => exact execCases_vex128 hi s
    | true => exact execCases_vex256 hi s

theorem exec_of_earlyFault {i : Instr} {s : State} {x : Exception} (hearly : s.earlyFault i = some x) :
    exec i s = takeException x s := by
  cases exec_cases i s with
  | raised y hy he =>
    cases hearly.symm.trans hy
    exact he
  | stopped y hy _ _ => simp [hearly] at hy
  | completed t hy _ _ => simp [hearly] at hy

theorem exec_of_sourceStops {i : Instr} {s : State} {x : Stop} (hearly : s.earlyFault i = none)
    (hstop : s.sourceStops i x) : exec i s = x.outcome s := by
  cases exec_cases i s with
  | raised y hy _ => simp [hearly] at hy
  | stopped y _ hy he =>
    obtain ⟨c, m, n, hm, hx⟩ := hstop
    obtain ⟨c', m', n', hm', hy⟩ := hy
    cases hm.symm.trans hm'
    cases hx.symm.trans hy
    exact he
  | completed t _ hread _ => exact absurd hstop (hread x)

theorem exec_of_not_sourceStops {i : Instr} {s : State} (hearly : s.earlyFault i = none)
    (hread : ∀ x, ¬ s.sourceStops i x) : ∃ t, exec i s = .next t := by
  cases exec_cases i s with
  | raised y hy _ => simp [hearly] at hy
  | stopped y _ hy _ => exact absurd hy (hread y)
  | completed t _ _ he => exact ⟨t, he⟩

/-- A refusal is a stop of the operand's read. -/
theorem exec_refused {i : Instr} {s : State} {r : Refusal} (h : exec i s = .refused r) :
    s.earlyFault i = none ∧ s.sourceStops i (.refuse r) := by
  cases exec_cases i s with
  | raised x _ he => simp [he, takeException] at h
  | stopped x hearly hstop he =>
    rw [he] at h
    cases x with
    | raise x => simp [Stop.outcome, takeException] at h
    | refuse r' => cases h; exact ⟨hearly, hstop⟩
  | completed t _ _ he => simp [he] at h

/-! ### Enabled classes -/

theorem earlyFault_of_enabledSse {s : State} {i : Instr} {d : Fin 16} {src : RegMem 16} (hi : i.shape = .sse d src)
    (hlock : i.enc.lock = false) (h : s.enabledSse = true) : s.earlyFault i = none := by
  simp only [State.enabledSse, Bool.and_eq_true, Bool.not_eq_true'] at h
  obtain ⟨⟨⟨hsse2, hem⟩, hosfxsr⟩, hts⟩ := h
  simp [earlyFault_sse hi, State.sseUd, hlock, hsse2, hem, hosfxsr, hts]

theorem earlyFault_of_vexReady {s : State} {i : Instr} {l : Bool} {d a : Fin 16} {src : RegMem 16}
    (hi : i.shape = .vex l d a src) (hlock : i.enc.lock = false) (h : s.vexReady = true)
    (hfeature : (if l then s.config.hasAvx2 else s.config.hasAvx) = true) : s.earlyFault i = none := by
  have hsplit : s.vexReady = (shapeControlled s i.shape && !s.ts) := by rw [hi]; rfl
  have hfeatured : shapeFeatured s i.shape = true := by rw [hi]; exact hfeature
  simp only [hsplit, Bool.and_eq_true, Bool.not_eq_true'] at h
  obtain ⟨hcontrolled, hts⟩ := h
  have hud : s.udFor i = false := by simp [State.udFor, hlock, hfeatured, hcontrolled]
  exact earlyFault_eq_none_iff.2 ⟨hud, hts, by simp [isMmxForm, hi]⟩

theorem misaligned_sse {s : State} {g : Seg} {ea : Word} {n : Nat} :
    s.misaligned .sse g ea n = true ↔ (s.linear g ea).toNat % 16 ≠ 0 := by
  simp [State.misaligned]

/-- R44 and decision D7: the parameter and the operand's size decide. -/
theorem misaligned_vex {s : State} {g : Seg} {ea : Word} {n : Nat} :
    s.misaligned .vex g ea n = true ↔ s.config.vexAlign16 = true ∧ (s.linear g ea).toNat % n ≠ 0 := by
  simp [State.misaligned]

theorem exec_of_misaligned {i : Instr} {s : State} {c : OpClass} {m : MemOp} {n : Nat}
    (hearly : s.earlyFault i = none) (hm : memOperandOf i = some (c, m, n))
    (h : s.misaligned c m.seg (s.effAddr i.enc.len m) n = true) :
    exec i s = .fault (.generalProtection s.rip) :=
  exec_of_sourceStops hearly ⟨c, m, n, hm, memRead_misaligned h⟩

theorem exec_of_operandOk {i : Instr} {s : State} {c : OpClass} {m : MemOp} {n : Nat}
    (hearly : s.earlyFault i = none) (hm : memOperandOf i = some (c, m, n))
    (h : s.operandOk c m.seg (s.effAddr i.enc.len m) n = true) : ∃ t, exec i s = .next t := by
  refine exec_of_not_sourceStops hearly fun x hx => ?_
  obtain ⟨c', m', n', hm', hx⟩ := hx
  cases hm.symm.trans hm'
  rw [State.readMem, memRead_ok s c m.seg _ n h] at hx
  cases hx

/-! ### The statements about the checks and the bytes of an operand -/

/-- Settles O41: alignment is the first check of the read (R58 step 1). -/
theorem misalignedSseOperandIsGp : Obligations.MisalignedSseOperandIsGp := by
  intro i d m s hi hlock hen hmis
  have hm : memOperandOf i = some (.sse, m, 16) := by simp [memOperandOf, hi]
  exact exec_of_misaligned (earlyFault_of_enabledSse hi hlock hen) hm (misaligned_sse.2 hmis)

/-- Settles O42: misalignment is the only check of the read that the parameter decides. -/
theorem vexAlignmentFollowsTheParameter : Obligations.VexAlignmentFollowsTheParameter := by
  intro i l d a m s hi hlock hready hfeature
  have hearly := earlyFault_of_vexReady hi hlock hready hfeature
  have hm : memOperandOf i = some (.vex, m, if l then 32 else 16) := by simp [memOperandOf, hi]
  refine ⟨fun halign hmis => exec_of_misaligned hearly hm (misaligned_vex.2 ⟨halign, hmis⟩), ?_⟩
  rintro halign ⟨as, has, hord⟩
  refine exec_of_operandOk hearly hm ?_
  simp only [State.operandOk, has, hord]
  simp [State.misaligned, State.alignTrap, halign]

/-- Settles O47: a refusal of `exec` is a refusal of the operand's read. -/
theorem operandOutsideOrdinaryMemoryIsRefused : Obligations.OperandOutsideOrdinaryMemoryIsRefused := by
  refine ⟨fun i c m n s hm hud hts hmf hmis htrap hout => ?_, fun i s r h => ?_⟩
  · exact exec_of_sourceStops (earlyFault_eq_none_iff.2 ⟨hud, hts, hmf⟩)
      ⟨c, m, n, hm, memRead_refuse_iff.2 ⟨rfl, hmis, htrap, hout⟩⟩
  · obtain ⟨hearly, c, m, n, hm, hread⟩ := exec_refused h
    obtain ⟨hud, hts, hmf⟩ := earlyFault_eq_none_iff.1 hearly
    obtain ⟨hr, hmis, htrap, as, has, hout⟩ := memRead_refuse_iff.1 hread
    exact ⟨hr, hud, hts, hmf, c, m, n, hm, hmis, htrap, as, has, by simpa using hout⟩

/-- Settles O45: the value is the little-endian value of the bytes at the translated addresses. -/
theorem memoryOperandsAreLittleEndian : Obligations.MemoryOperandsAreLittleEndian := by
  refine fun s len m => ⟨fun v hv => ?_, fun c v hv => ?_, fun v hv => ?_⟩
  · obtain ⟨bs, hbs, rfl⟩ := mmSource_mem_ok hv
    obtain ⟨as, has, hlen, rfl⟩ := memRead_ok_addresses hbs
    refine ⟨?_, as, has, hlen, fun k hk => ?_⟩
    · exact extractLsb'_high_ofNat_leNat (by simp [hlen])
    · exact extractLsb'_ofNat_leNat_read 64 (by omega) (by simpa [State.fetchedBytes] using hk) (by omega)
  · obtain ⟨bs, hbs, rfl⟩ := xmmSource_mem_ok hv
    obtain ⟨as, has, hlen, rfl⟩ := memRead_ok_addresses hbs
    refine ⟨as, has, hlen, fun k hk => ?_⟩
    have hk16 : k < 16 := by split at hk <;> omega
    exact extractLsb'_ofNat_leNat_read 128 (by omega) (by simpa [State.fetchedBytes] using hk) (by omega)
  · obtain ⟨bs, hbs, rfl⟩ := ymmSource_mem_ok hv
    obtain ⟨as, has, hlen, rfl⟩ := memRead_ok_addresses hbs
    refine ⟨as, has, hlen, fun k hk => ?_⟩
    exact extractLsb'_ofNat_leNat_read 256 (by omega) (by simpa [State.fetchedBytes] using hk) (by omega)

/-! ### `FETCH64` (R46) -/

/-- The state with the parameter `FETCH64` set to `b`. -/
def State.withFetch64 (s : State) (b : Bool) : State := { s with config := { s.config with fetch64 := b } }

/-- The outcome with the parameter `FETCH64` of its next state set to `b`. -/
def outcomeWithFetch64 (b : Bool) : Host.Outcome State Fault Refusal → Host.Outcome State Fault Refusal
  | .next t => .next (t.withFetch64 b)
  | .fault f => .fault f
  | .refused r => .refused r

@[simp] theorem misaligned_withFetch64 (s : State) (b : Bool) (c : OpClass) (g : Seg) (ea : Word) (n : Nat) :
    (s.withFetch64 b).misaligned c g ea n = s.misaligned c g ea n := rfl

@[simp] theorem alignTrap_withFetch64 (s : State) (b : Bool) (c : OpClass) (g : Seg) (ea : Word) :
    (s.withFetch64 b).alignTrap c g ea = s.alignTrap c g ea := rfl

@[simp] theorem withFetch64_ordinary (s : State) (b : Bool) :
    (s.withFetch64 b).config.ordinary = s.config.ordinary := rfl

theorem pageWalks_withFetch64 (s : State) (b : Bool) (as : List Word) :
    (s.withFetch64 b).pageWalks as = s.pageWalks as := by
  induction as with
  | nil => rfl
  | cons a r ih =>
    have ha : (s.withFetch64 b).pageWalk a = s.pageWalk a := rfl
    simp only [State.pageWalks, ha, ih]

@[simp] theorem translate_withFetch64 (s : State) (b : Bool) (g : Seg) (ea : Word) (n : Nat) :
    (s.withFetch64 b).translate g ea n = s.translate g ea n := by
  have hwalk : (s.withFetch64 b).walk g ea n = s.walk g ea n := by
    rw [State.walk, pageWalks_withFetch64]
    rfl
  rw [State.translate, hwalk]
  rfl

@[simp] theorem operandBytes_withFetch64 (s : State) (b : Bool) (g : Seg) (ea : Word) (n : Nat) :
    (s.withFetch64 b).operandBytes g ea n = s.operandBytes g ea n := by
  simp only [State.operandBytes, translate_withFetch64]
  rfl

@[simp] theorem earlyFault_withFetch64 (s : State) (b : Bool) (i : Instr) :
    (s.withFetch64 b).earlyFault i = s.earlyFault i := rfl

@[simp] theorem xmmValue_withFetch64 (s : State) (b : Bool) (len : Nat) (src : RegMem 16) :
    (s.withFetch64 b).xmmValue len src = s.xmmValue len src := by
  cases src with
  | reg r => rfl
  | mem m =>
    simp only [State.xmmValue, operandBytes_withFetch64]
    rfl

theorem takeException_withFetch64 (x : Exception) (s : State) (b : Bool) :
    takeException x (s.withFetch64 b) = outcomeWithFetch64 b (takeException x s) := rfl

theorem stop_outcome_withFetch64 (x : Stop) (s : State) (b : Bool) :
    x.outcome (s.withFetch64 b) = outcomeWithFetch64 b (x.outcome s) := by
  cases x <;> rfl

/-- All bytes of an operand are checked, whatever `FETCH64` (log 20). -/
theorem memRead_error_withFetch64 (s : State) (b : Bool) (c : OpClass) (g : Seg) (ea : Word) (n : Nat) (x : Stop) :
    (s.withFetch64 b).memRead c g ea n = .error x ↔ s.memRead c g ea n = .error x := by
  cases hm : s.misaligned c g ea n with
  | true => simp [memRead_misaligned, hm]
  | false =>
    cases ht : s.translate g ea n with
    | error y => simp [State.memRead, hm, ht]
    | ok as =>
      cases htrap : s.alignTrap c g ea with
      | true => simp [State.memRead, hm, ht, htrap]
      | false =>
        cases hord : as.all (ordinaryAt s.config.ordinary) <;>
          simp [State.memRead, hm, ht, htrap, hord, -List.all_eq_true, -List.all_eq_false]

theorem sourceStops_withFetch64 (s : State) (b : Bool) (i : Instr) (x : Stop) :
    (s.withFetch64 b).sourceStops i x ↔ s.sourceStops i x := by
  have hread : ∀ c m n,
      (s.withFetch64 b).readMem c i.enc.len m n = .error x ↔ s.readMem c i.enc.len m n = .error x := fun c m n =>
    memRead_error_withFetch64 s b c m.seg (s.effAddr i.enc.len m) n x
  simp only [State.sourceStops, hread]

/-- The function reads nothing of either source but its low half (spec/40_interleave_functions.md R115). -/
def ReadsLowHalves (f : BitVec 128 → BitVec 128 → BitVec 128) : Prop :=
  ∀ s1 s2 u1 u2 : BitVec 128, s1.extractLsb' 0 64 = u1.extractLsb' 0 64 →
    s2.extractLsb' 0 64 = u2.extractLsb' 0 64 → f s1 s2 = f u1 u2

theorem extractLsb_congr_low {u v : BitVec 128} (h : u.extractLsb' 0 64 = v.extractLsb' 0 64) {hi lo : Nat}
    (hlo : lo ≤ hi) (hhi : hi < 64) : u.extractLsb hi lo = v.extractLsb hi lo := by
  apply BitVec.eq_of_getLsbD_eq
  intro k hk
  have hlt : lo + k < 64 := by omega
  have hbit := congrArg (fun w => w.getLsbD (lo + k)) h
  simpa [hlt, hk, BitVec.getLsbD_extractLsb] using hbit

theorem interleaveBytes_readsLowHalves : ReadsLowHalves interleaveBytes := by
  intro s1 s2 u1 u2 h1 h2
  simp (disch := decide) only [interleaveBytes, extractLsb_congr_low h1, extractLsb_congr_low h2]

theorem interleaveWords_readsLowHalves : ReadsLowHalves interleaveWords := by
  intro s1 s2 u1 u2 h1 h2
  simp (disch := decide) only [interleaveWords, extractLsb_congr_low h1, extractLsb_congr_low h2]

theorem interleaveDwords_readsLowHalves : ReadsLowHalves interleaveDwords := by
  intro s1 s2 u1 u2 h1 h2
  simp (disch := decide) only [interleaveDwords, extractLsb_congr_low h1, extractLsb_congr_low h2]

theorem interleaveQwords_readsLowHalves : ReadsLowHalves interleaveQwords := by
  intro s1 s2 u1 u2 h1 h2
  simp (disch := decide) only [interleaveQwords, extractLsb_congr_low h1, extractLsb_congr_low h2]

/-- `exec_of_shape_sse` with what the function reads. -/
theorem exec_of_shape_sse_readsLowHalves {i : Instr} {d : Fin 16} {src : RegMem 16} (hi : i.shape = .sse d src) :
    ∃ f, ReadsLowHalves f ∧ ∀ s, exec i s = sseForm f i.enc d src s := by
  cases i <;> cases hi
  case punpcklbwXmm.refl => exact ⟨_, interleaveBytes_readsLowHalves, fun _ => rfl⟩
  case punpcklwdXmm.refl => exact ⟨_, interleaveWords_readsLowHalves, fun _ => rfl⟩
  case punpckldqXmm.refl => exact ⟨_, interleaveDwords_readsLowHalves, fun _ => rfl⟩
  case punpcklqdqXmm.refl => exact ⟨_, interleaveQwords_readsLowHalves, fun _ => rfl⟩

/-- `exec_of_shape_vex128` with what the function reads. -/
theorem exec_of_shape_vex128_readsLowHalves {i : Instr} {d a : Fin 16} {src : RegMem 16}
    (hi : i.shape = .vex false d a src) :
    ∃ f, ReadsLowHalves f ∧ ∀ s, exec i s = vex128Form f i.enc d a src s := by
  cases i <;> cases hi
  case vpunpcklbwXmm.refl => exact ⟨_, interleaveBytes_readsLowHalves, fun _ => rfl⟩
  case vpunpcklwdXmm.refl => exact ⟨_, interleaveWords_readsLowHalves, fun _ => rfl⟩
  case vpunpckldqXmm.refl => exact ⟨_, interleaveDwords_readsLowHalves, fun _ => rfl⟩
  case vpunpcklqdqXmm.refl => exact ⟨_, interleaveQwords_readsLowHalves, fun _ => rfl⟩

theorem memRead_ok_withFetch64 {s : State} {b : Bool} {c : OpClass} {g : Seg} {ea : Word} {n : Nat}
    {bs bs' : List Byte} (hn : n ≠ 16) (h : s.memRead c g ea n = .ok bs)
    (h' : (s.withFetch64 b).memRead c g ea n = .ok bs') : bs' = bs := by
  have hall : ∀ u : State, u.fetchedBytes n = n := fun u => by simp [State.fetchedBytes, hn]
  rw [memRead_ok_bytes h, memRead_ok_bytes h', hall, hall, operandBytes_withFetch64]

theorem mmSource_ok_withFetch64 {s : State} {b : Bool} {len : Nat} {src : RegMem 8} {v v' : BitVec 64}
    (h : s.mmSource len src = .ok v) (h' : (s.withFetch64 b).mmSource len src = .ok v') : v' = v := by
  cases src with
  | reg r => cases h; cases h'; rfl
  | mem m =>
    obtain ⟨bs, hbs, rfl⟩ := mmSource_mem_ok h
    obtain ⟨bs', hbs', rfl⟩ := mmSource_mem_ok h'
    rw [memRead_ok_withFetch64 (by decide) hbs hbs']

theorem ymmSource_ok_withFetch64 {s : State} {b : Bool} {len : Nat} {src : RegMem 16} {v v' : BitVec 256}
    (h : s.ymmSource len src = .ok v) (h' : (s.withFetch64 b).ymmSource len src = .ok v') : v' = v := by
  cases src with
  | reg r => cases h; cases h'; rfl
  | mem m =>
    obtain ⟨bs, hbs, rfl⟩ := ymmSource_mem_ok h
    obtain ⟨bs', hbs', rfl⟩ := ymmSource_mem_ok h'
    rw [memRead_ok_withFetch64 (by decide) hbs hbs']

/-- Whenever a 128-bit source is read, the low 64 bits are those of the operand (R46). -/
theorem xmmSource_ok_low {s : State} {c : OpClass} {len : Nat} {src : RegMem 16} {v : BitVec 128}
    (h : s.xmmSource c len src = .ok v) : v.extractLsb' 0 64 = (s.xmmValue len src).extractLsb' 0 64 := by
  cases src with
  | reg r => cases h; rfl
  | mem m =>
    obtain ⟨bs, hbs, _⟩ := xmmSource_mem_ok h
    rcases memRead_cases s c m.seg (s.effAddr len m) 16 with ⟨hok, _⟩ | ⟨_, herr⟩
    · obtain ⟨v', hv', hlow⟩ := xmmSource_ok s c len (.mem m) hok
      cases h.symm.trans hv'
      exact hlow
    · rw [State.readMem] at hbs
      simp [hbs] at herr

theorem xmmSource_ok_withFetch64 {s : State} {b : Bool} {c : OpClass} {len : Nat} {src : RegMem 16}
    {v v' : BitVec 128} (h : s.xmmSource c len src = .ok v) (h' : (s.withFetch64 b).xmmSource c len src = .ok v') :
    v'.extractLsb' 0 64 = v.extractLsb' 0 64 := by
  rw [xmmSource_ok_low h, xmmSource_ok_low h', xmmValue_withFetch64]

theorem mmxForm_next_withFetch64 {f : BitVec 64 → BitVec 64 → BitVec 64} {e : Enc} {d : Fin 8} {src : RegMem 8}
    {s t t' : State} {b : Bool} (h : mmxForm f e d src s = .next t)
    (h' : mmxForm f e d src (s.withFetch64 b) = .next t') : t' = t.withFetch64 b := by
  obtain ⟨v, hv, rfl⟩ := mmxForm_next h
  obtain ⟨v', hv', rfl⟩ := mmxForm_next h'
  rw [mmSource_ok_withFetch64 hv hv']
  rfl

theorem sseForm_next_withFetch64 {f : BitVec 128 → BitVec 128 → BitVec 128} (hlow : ReadsLowHalves f) {e : Enc}
    {d : Fin 16} {src : RegMem 16} {s t t' : State} {b : Bool} (h : sseForm f e d src s = .next t)
    (h' : sseForm f e d src (s.withFetch64 b) = .next t') : t' = t.withFetch64 b := by
  obtain ⟨v, hv, rfl⟩ := sseForm_next h
  obtain ⟨v', hv', rfl⟩ := sseForm_next h'
  rw [hlow _ _ _ _ rfl (xmmSource_ok_withFetch64 hv hv')]
  rfl

theorem vex128Form_next_withFetch64 {f : BitVec 128 → BitVec 128 → BitVec 128} (hlow : ReadsLowHalves f) {e : Enc}
    {d a : Fin 16} {src : RegMem 16} {s t t' : State} {b : Bool} (h : vex128Form f e d a src s = .next t)
    (h' : vex128Form f e d a src (s.withFetch64 b) = .next t') : t' = t.withFetch64 b := by
  obtain ⟨v, hv, rfl⟩ := vex128Form_next h
  obtain ⟨v', hv', rfl⟩ := vex128Form_next h'
  rw [hlow _ _ _ _ rfl (xmmSource_ok_withFetch64 hv hv')]
  rfl

theorem vex256Form_next_withFetch64 {f : BitVec 256 → BitVec 256 → BitVec 256} {e : Enc} {d a : Fin 16}
    {src : RegMem 16} {s t t' : State} {b : Bool} (h : vex256Form f e d a src s = .next t)
    (h' : vex256Form f e d a src (s.withFetch64 b) = .next t') : t' = t.withFetch64 b := by
  obtain ⟨v, hv, rfl⟩ := vex256Form_next h
  obtain ⟨v', hv', rfl⟩ := vex256Form_next h'
  rw [ymmSource_ok_withFetch64 hv hv']
  rfl

/-- Where an instruction completes under both values of `FETCH64`, it leaves the same state but for the parameter. -/
theorem exec_next_withFetch64 {i : Instr} {s t t' : State} {b : Bool} (h : exec i s = .next t)
    (h' : exec i (s.withFetch64 b) = .next t') : t' = t.withFetch64 b := by
  cases hi : i.shape with
  | mmx d src =>
    obtain ⟨f, hf⟩ := exec_of_shape_mmx hi
    exact mmxForm_next_withFetch64 (hf _ ▸ h) (hf _ ▸ h')
  | sse d src =>
    obtain ⟨f, hlow, hf⟩ := exec_of_shape_sse_readsLowHalves hi
    exact sseForm_next_withFetch64 hlow (hf _ ▸ h) (hf _ ▸ h')
  | vex l d a src =>
    cases l with
    | false =>
      obtain ⟨f, hlow, hf⟩ := exec_of_shape_vex128_readsLowHalves hi
      exact vex128Form_next_withFetch64 hlow (hf _ ▸ h) (hf _ ▸ h')
    | true =>
      obtain ⟨f, hf⟩ := exec_of_shape_vex256 hi
      exact vex256Form_next_withFetch64 (hf _ ▸ h) (hf _ ▸ h')

/-- `FETCH64` changes nothing of an outcome but the parameter itself (R46, decision D8). -/
theorem exec_withFetch64 (i : Instr) (s : State) (b : Bool) :
    exec i (s.withFetch64 b) = outcomeWithFetch64 b (exec i s) := by
  have hsame := earlyFault_withFetch64 s b i
  cases exec_cases i s with
  | raised x hearly he =>
    rw [he, exec_of_earlyFault (hsame.trans hearly), takeException_withFetch64]
  | stopped x hearly hstop he =>
    have hstop' := (sourceStops_withFetch64 s b i x).2 hstop
    rw [he, exec_of_sourceStops (hsame.trans hearly) hstop', stop_outcome_withFetch64]
  | completed t hearly hread he =>
    have hread' : ∀ x, ¬ (s.withFetch64 b).sourceStops i x := fun x hx =>
      hread x ((sourceStops_withFetch64 s b i x).1 hx)
    obtain ⟨t', he'⟩ := exec_of_not_sourceStops (hsame.trans hearly) hread'
    rw [he, he', exec_next_withFetch64 he he']
    rfl

/-- Settles O46, from `exec_withFetch64`. -/
theorem fetchWidthChangesNoOutcome : Obligations.FetchWidthChangesNoOutcome := by
  intro i s b
  refine ⟨fun t h => ?_, fun f h => ?_, fun r h => ?_⟩ <;>
    exact (exec_withFetch64 i s b).trans (congrArg (outcomeWithFetch64 b) h)

end Sys2Proof.Machine

/-! ## Operands in an encoding (spec/30_encoding.md R64 to R70, R75, R76)

First the decoder reads back what the encoder writes for an operand (`takeModRM_encode`); then, for whatever bytes, what
an operand that the decoder has read is like (`takeModRM_some`), and that it is not read from fewer bytes
(`takeModRM_take`). -/

namespace Sys2Proof

/-! ### The three fields of a ModRM or SIB byte (R64, R65) -/

@[simp] theorem extractLsb_fields_high (a : BitVec 2) (b c : BitVec 3) : (a ++ b ++ c).extractLsb 7 6 = a := by
  have h : (a ++ b ++ c).extractLsb' 6 2 = (a ++ b).extractLsb' 3 2 := BitVec.extractLsb'_append_eq_of_le (by omega)
  exact h.trans BitVec.extractLsb'_append_eq_left

@[simp] theorem extractLsb_fields_mid (a : BitVec 2) (b c : BitVec 3) : (a ++ b ++ c).extractLsb 5 3 = b := by
  have h : (a ++ b ++ c).extractLsb' 3 3 = (a ++ b).extractLsb' 0 3 := BitVec.extractLsb'_append_eq_of_le (by omega)
  exact h.trans BitVec.extractLsb'_append_eq_right

@[simp] theorem extractLsb_fields_low (a : BitVec 2) (b c : BitVec 3) : (a ++ b ++ c).extractLsb 2 0 = c :=
  BitVec.extractLsb'_append_eq_right

/-! ### Register numbers (R75) -/

@[simp] theorem regNum_hiBit_lowBits (r : Fin 16) : regNum (hiBit r) (lowBits r) = r := by
  revert r; decide

@[simp] theorem hiBit_regNum (e : Bool) (n : BitVec 3) : hiBit (regNum e n) = e := by
  revert e n; decide

@[simp] theorem lowBits_regNum (e : Bool) (n : BitVec 3) : lowBits (regNum e n) = n := by
  revert e n; decide

theorem regOk_regNum {c : Ctx} {e : Bool} (n : BitVec 3) (h : c.long = false → e = false) :
    regOk c (regNum e n) = true := by
  have hlow : (regNum false n).val < 8 := by revert n; decide
  cases hc : c.long <;> simp_all [regOk]

theorem hiBit_of_regOk {c : Ctx} {r : Fin 16} (h : regOk c r = true) (hc : c.long = false) : hiBit r = false := by
  simp only [regOk, hc, Bool.false_or, decide_eq_true_eq] at h
  revert r; decide

/-! ### Displacements (R66) -/

/-- The displacement an encoding of `n` bytes can carry. -/
def dispFits (n : Nat) (d : BitVec 32) : Prop :=
  (n = 0 ∧ d = 0) ∨ (n = 1 ∧ dispFits8 d = true) ∨ (n = 2 ∧ d = (d.setWidth 16).signExtend 32) ∨ n = 4

theorem dispBytes_two (d : BitVec 32) : dispBytes 2 d = [d.extractLsb' 0 8, d.extractLsb' 8 8] := rfl

theorem dispBytes_four (d : BitVec 32) :
    dispBytes 4 d = [d.extractLsb' 0 8, d.extractLsb' 8 8, d.extractLsb' 16 8, d.extractLsb' 24 8] := rfl

@[simp] theorem length_dispBytes (n : Nat) (d : BitVec 32) : (dispBytes n d).length = n := by simp [dispBytes]

theorem takeDisp_dispBytes {n : Nat} {d : BitVec 32} (h : dispFits n d) (r : List Byte) :
    takeDisp n (dispBytes n d ++ r) = some (d, r) := by
  rcases h with ⟨rfl, rfl⟩ | ⟨rfl, h8⟩ | ⟨rfl, h16⟩ | rfl
  · rfl
  · have hd : d = (d.setWidth 8).signExtend 32 := of_decide_eq_true h8
    have hb : dispBytes 1 d = [d.setWidth 8] := by
      rw [BitVec.setWidth_eq_extractLsb' (by omega)]
      rfl
    simp only [hb, List.cons_append, List.nil_append, takeDisp, ← hd]
  · have hb : d.extractLsb' 8 8 ++ d.extractLsb' 0 8 = d.setWidth 16 := by
      rw [BitVec.setWidth_eq_extractLsb' (by omega)]
      exact BitVec.extractLsb'_append_extractLsb'_eq_extractLsb' (by omega)
    simp only [dispBytes_two, List.cons_append, List.nil_append, takeDisp, hb, ← h16]
  · have hb : d.extractLsb' 24 8 ++ d.extractLsb' 16 8 ++ d.extractLsb' 8 8 ++ d.extractLsb' 0 8 = d := by
      rw [BitVec.extractLsb'_append_extractLsb'_eq_extractLsb' (by omega),
        BitVec.extractLsb'_append_extractLsb'_eq_extractLsb' (by omega),
        BitVec.extractLsb'_append_extractLsb'_eq_extractLsb' (by omega)]
      exact BitVec.extractLsb'_eq_self
    simp only [dispBytes_four, List.cons_append, List.nil_append, takeDisp, hb]

theorem signExtend_setWidth_signExtend {n k : Nat} (b : BitVec n) (hn : n ≤ k) (h0 : 0 < n) :
    ((b.signExtend 32).setWidth k).signExtend 32 = b.signExtend 32 := by
  ext i hi
  simp [BitVec.getElem_signExtend, BitVec.msb_eq_getLsbD_last, BitVec.getLsbD_signExtend]
  grind

theorem takeDisp_some {n : Nat} {r r' : List Byte} {d : BitVec 32} (h : takeDisp n r = some (d, r')) :
    dispFits n d ∧ r.length = n + r'.length := by
  unfold takeDisp at h
  split at h <;> cases h
  · exact ⟨.inl ⟨rfl, rfl⟩, by simp⟩
  · exact ⟨.inr (.inl ⟨rfl, decide_eq_true (signExtend_setWidth_signExtend _ le_rfl (by omega)).symm⟩),
      by simp; omega⟩
  · exact ⟨.inr (.inr (.inl ⟨rfl, (signExtend_setWidth_signExtend _ le_rfl (by omega)).symm⟩)),
      by simp; omega⟩
  · exact ⟨.inr (.inr (.inr rfl)), by simp; omega⟩

/-- With 16-bit addressing a displacement of at most two bytes is one a 16-bit displacement stands for. -/
theorem dispFits_two {n : Nat} {d : BitVec 32} (h : dispFits n d) (hn : n ≤ 2) :
    d = (d.setWidth 16).signExtend 32 := by
  rcases h with ⟨-, rfl⟩ | ⟨-, h8⟩ | ⟨-, h16⟩ | rfl
  · rfl
  · have hd : d = (d.setWidth 8).signExtend 32 := of_decide_eq_true h8
    rw [hd]
    exact (signExtend_setWidth_signExtend _ (by omega) (by omega)).symm
  · exact h16
  · omega

theorem takeDisp_take {n m : Nat} {r r' : List Byte} {d : BitVec 32} (h : takeDisp n r = some (d, r'))
    (hm : m + r'.length < r.length) : takeDisp n (r.take m) = none := by
  cases hx : takeDisp n (r.take m) with
  | none => rfl
  | some p =>
    have hlen := (takeDisp_some h).2
    have hshort := (takeDisp_some (d := p.1) (r' := p.2) hx).2
    rw [List.length_take] at hshort
    omega

theorem takeDisp_isSome {n : Nat} {r : List Byte} (hn : n = 0 ∨ n = 1 ∨ n = 2 ∨ n = 4) (hr : n ≤ r.length) :
    (takeDisp n r).isSome = true := by
  rcases r with _ | ⟨b0, _ | ⟨b1, _ | ⟨b2, _ | ⟨b3, r⟩⟩⟩⟩ <;>
    rcases hn with rfl | rfl | rfl | rfl <;> simp [takeDisp] at hr ⊢

/-! ### The displacement the encoder chooses (R66 to R68) -/

/-- How long the longest displacement of an address size is (R66). -/
def AddrSize.fullDisp : AddrSize → Nat
  | .a16 => 2
  | .a32 => 4
  | .a64 => 4

/-- A base register that `mod = 00` cannot stand for: its code there means an operand without a base (R67, R68). -/
def MemOp.needsDisp (m : MemOp) (b : Fin 16) : Bool :=
  match m.asize with
  | .a16 => b = 5 && m.index = none
  | _ => lowBits b = 5#3

theorem mod_dispLen_of_gpr {m : MemOp} {b : Fin 16} (hb : m.base = .gpr b) :
    (m.mod = 0 ∧ m.dispLen = 0 ∧ m.disp = 0 ∧ m.needsDisp b = false) ∨
    (m.mod = 1 ∧ m.dispLen = 1 ∧ dispFits8 m.disp = true ∧ ¬ (m.disp = 0 ∧ m.needsDisp b = false)) ∨
    (m.mod = 2 ∧ m.dispLen = m.asize.fullDisp ∧ dispFits8 m.disp = false ∧
      ¬ (m.disp = 0 ∧ m.needsDisp b = false)) := by
  have hmod : m.mod = if m.disp = 0 && !(m.needsDisp b) then 0 else if dispFits8 m.disp then 1 else 2 := by
    cases ha : m.asize <;> simp [MemOp.mod, hb, MemOp.needsDisp, ha]
  have hlen : m.dispLen = if m.mod = 0 then 0 else if m.mod = 1 then 1 else m.asize.fullDisp := by
    cases ha : m.asize <;> simp [MemOp.dispLen, hb, ha, AddrSize.fullDisp]
  by_cases h0 : m.disp = 0 ∧ m.needsDisp b = false
  · left
    simp_all
  · have h0' : (m.disp = 0 && !(m.needsDisp b)) = false := by simpa using h0
    rw [h0'] at hmod
    right
    cases h8 : dispFits8 m.disp <;> simp_all

theorem dispLen_of_not_gpr {m : MemOp} (hb : ∀ b, m.base ≠ .gpr b) :
    m.mod = 0 ∧ m.dispLen = m.asize.fullDisp := by
  cases hbase : m.base with
  | gpr b => exact absurd hbase (hb b)
  | none => cases ha : m.asize <;> simp [MemOp.mod, MemOp.dispLen, hbase, ha, AddrSize.fullDisp]
  | next => cases ha : m.asize <;> simp [MemOp.mod, MemOp.dispLen, hbase, ha, AddrSize.fullDisp]

/-- The encoder's displacement is as short as any that names the same operand. -/
theorem dispLen_le_of_dispFits {m : MemOp} {b : Fin 16} {n : Nat} (hb : m.base = .gpr b) (hfit : dispFits n m.disp)
    (h0 : n = 0 → m.needsDisp b = false) (hn : n ≤ 1 ∨ m.asize.fullDisp ≤ n) : m.dispLen ≤ n := by
  have hzero : dispFits8 0 = true := by decide
  rcases mod_dispLen_of_gpr hb with ⟨-, hlen, -⟩ | ⟨-, hlen, -, hne⟩ | ⟨-, hlen, h8, -⟩
  · omega
  · rcases hfit with ⟨rfl, hd⟩ | ⟨rfl, -⟩ | ⟨rfl, -⟩ | rfl
    · exact absurd ⟨hd, h0 rfl⟩ hne
    all_goals omega
  · rcases hfit with ⟨rfl, hd⟩ | ⟨rfl, hd⟩ | ⟨rfl, -⟩ | rfl
    · simp_all
    · simp_all
    all_goals omega

theorem mod_ne_three (m : MemOp) : m.mod ≠ 3#2 := by
  cases hbase : m.base with
  | gpr b => rcases mod_dispLen_of_gpr hbase with ⟨h, -⟩ | ⟨h, -⟩ | ⟨h, -⟩ <;> rw [h] <;> decide
  | none => rw [(dispLen_of_not_gpr (by simp [hbase])).1]; decide
  | next => rw [(dispLen_of_not_gpr (by simp [hbase])).1]; decide

/-- A well-formed operand's displacement is one its encoding can carry. -/
theorem dispFits_dispLen {c : Ctx} {m : MemOp} (hw : m.wf c = true) : dispFits m.dispLen m.disp := by
  have hfull : dispFits m.asize.fullDisp m.disp := by
    cases ha : m.asize with
    | a16 =>
      simp only [MemOp.wf, ha, Bool.and_eq_true, decide_eq_true_eq] at hw
      exact .inr (.inr (.inl ⟨rfl, hw.2⟩))
    | a32 => exact .inr (.inr (.inr rfl))
    | a64 => exact .inr (.inr (.inr rfl))
  cases hbase : m.base with
  | gpr b =>
    rcases mod_dispLen_of_gpr hbase with ⟨-, hlen, hd, -⟩ | ⟨-, hlen, hd, -⟩ | ⟨-, hlen, -⟩ <;> rw [hlen]
    · exact .inl ⟨rfl, hd⟩
    · exact .inr (.inl ⟨rfl, hd⟩)
    · exact hfull
  | none => rw [(dispLen_of_not_gpr (by simp [hbase])).2]; exact hfull
  | next => rw [(dispLen_of_not_gpr (by simp [hbase])).2]; exact hfull

theorem takeDisp_encode {c : Ctx} {m : MemOp} (hw : m.wf c = true) (r : List Byte) :
    takeDisp m.dispLen (dispBytes m.dispLen m.disp ++ r) = some (m.disp, r) :=
  takeDisp_dispBytes (dispFits_dispLen hw) r

/-! ### The decoder reads an encoded memory operand -/

theorem pair16_rm16 {b : Fin 16} {x : Option (Fin 16 × Fin 4)} (h : pair16Ok (.gpr b) x = true) :
    pair16 (rm16 (.gpr b) x) = (.gpr b, x) ∧ (rm16 (.gpr b) x = 6 → b = 5 ∧ x = none) := by
  cases x with
  | none => revert b; decide
  | some p =>
    obtain ⟨i, k⟩ := p
    simp only [pair16Ok, Bool.and_eq_true, Bool.or_eq_true, decide_eq_true_eq] at h
    obtain ⟨⟨rfl | rfl, rfl | rfl⟩, rfl⟩ := h <;> decide

theorem takeMem16_encode {c : Ctx} {m : MemOp} (ha : m.asize = .a16) (hw : m.wf c = true) (seg : Option Seg)
    (r : List Byte) :
    takeMem16 seg m.mod (rm16 m.base m.index) (dispBytes m.dispLen m.disp ++ r) =
      some (mkMem seg .a16 m.base m.index m.disp, r) := by
  have hdisp := takeDisp_encode hw r
  have hpair : pair16Ok m.base m.index = true := by
    simp only [MemOp.wf, ha, Bool.and_eq_true] at hw
    exact hw.1.2
  cases hbase : m.base with
  | gpr b =>
    rw [hbase] at hpair
    obtain ⟨hp, h6⟩ := pair16_rm16 hpair
    rcases mod_dispLen_of_gpr hbase with ⟨hmod, hlen, -, hnd⟩ | ⟨hmod, hlen, -⟩ | ⟨hmod, hlen, -⟩
    · have hne : rm16 (.gpr b) m.index ≠ 6 := fun h => by
        obtain ⟨rfl, hx⟩ := h6 h
        simp [MemOp.needsDisp, ha, hx] at hnd
      rw [hlen] at hdisp ⊢
      simp_all [takeMem16]
    · rw [hlen] at hdisp ⊢
      simp_all [takeMem16]
    · rw [ha] at hlen
      rw [hlen, AddrSize.fullDisp] at hdisp ⊢
      simp_all [takeMem16]
  | none =>
    obtain ⟨hmod, hlen⟩ := dispLen_of_not_gpr (m := m) (by simp [hbase])
    have hx : m.index = none := by
      cases hi : m.index with
      | none => rfl
      | some p => simp [hbase, hi, pair16Ok] at hpair
    rw [ha] at hlen
    rw [hlen, AddrSize.fullDisp] at hdisp ⊢
    simp [takeMem16, hmod, hx, rm16, hdisp]
  | next => simp [hbase, pair16Ok] at hpair

theorem takeMem_of_ne_a16 {a : AddrSize} (ha : a ≠ .a16) (c : Ctx) (e : Ext) (seg : Option Seg) (mod : BitVec 2)
    (rm : BitVec 3) (r : List Byte) :
    takeMem c a e seg mod rm r =
      if rm = 4#3 then takeMemSib a e seg mod r else takeMemPlain c a e seg mod rm r := by
  cases a with
  | a16 => exact absurd rfl ha
  | a32 => rfl
  | a64 => rfl

theorem pair32Ok_of_wf {c : Ctx} {m : MemOp} (ha : m.asize ≠ .a16) (hw : m.wf c = true) :
    pair32Ok c m.base m.index = true := by
  cases h : m.asize with
  | a16 => exact absurd h ha
  | a32 => simpa [MemOp.wf, h] using hw
  | a64 => exact (by simpa [MemOp.wf, h] using hw : _ ∧ _).2

/-- When an operand of 32-bit or 64-bit addressing has a SIB byte (R65, R67). -/
theorem needsSib_of_ne_a16 {c : Ctx} {m : MemOp} (ha : m.asize ≠ .a16) :
    m.needsSib c = (m.index.isSome || match m.base with
      | .gpr b => lowBits b = 4#3
      | .none => c.long
      | .next => false) := by
  cases h : m.asize with
  | a16 => exact absurd h ha
  | a32 => cases hb : m.base <;> cases hi : m.index <;> simp [MemOp.needsSib, h, hb, hi]
  | a64 => cases hb : m.base <;> cases hi : m.index <;> simp [MemOp.needsSib, h, hb, hi]

theorem rm_of_ne_a16 {c : Ctx} {m : MemOp} (ha : m.asize ≠ .a16) :
    m.rm c = if m.needsSib c then 4 else match m.base with | .gpr b => lowBits b | _ => 5 := by
  cases h : m.asize with
  | a16 => exact absurd h ha
  | a32 => cases hb : m.base <;> simp [MemOp.rm, h, hb]
  | a64 => cases hb : m.base <;> simp [MemOp.rm, h, hb]

theorem fullDisp_of_ne_a16 {a : AddrSize} (ha : a ≠ .a16) : a.fullDisp = 4 := by
  cases a with
  | a16 => exact absurd rfl ha
  | a32 => rfl
  | a64 => rfl

/-- The number of displacement bytes that `mod` asks for with a base register (R67). -/
theorem dispLen32_mod {m : MemOp} {b : Fin 16} (ha : m.asize ≠ .a16) (hb : m.base = .gpr b) :
    dispLen32 m.mod = m.dispLen := by
  have hfull := fullDisp_of_ne_a16 ha
  rcases mod_dispLen_of_gpr hb with ⟨hmod, hlen, -⟩ | ⟨hmod, hlen, -⟩ | ⟨hmod, hlen, -⟩ <;>
    simp [hmod, hlen, hfull, dispLen32]

/-- `mod = 00` stands for a base register only where its low bits are not `101b` (R67). -/
theorem mod_low_of_gpr {m : MemOp} {b : Fin 16} (ha : m.asize ≠ .a16) (hb : m.base = .gpr b) :
    (m.mod = 0#2 && lowBits b = 5#3) = false := by
  rw [Bool.eq_false_iff]
  intro hboth
  obtain ⟨hmod, hlow⟩ : m.mod = 0#2 ∧ lowBits b = 5#3 := by simpa using hboth
  rcases mod_dispLen_of_gpr hb with ⟨-, -, -, hnd⟩ | ⟨h, -⟩ | ⟨h, -⟩
  · cases h : m.asize with
    | a16 => exact ha h
    | a32 => simp [MemOp.needsDisp, h, hlow] at hnd
    | a64 => simp [MemOp.needsDisp, h, hlow] at hnd
  · exact absurd (h.symm.trans hmod) (by decide)
  · exact absurd (h.symm.trans hmod) (by decide)

theorem sibIndex_sib {c : Ctx} {m : MemOp} (h : pair32Ok c m.base m.index = true) (r : Bool) :
    sibIndex (m.ext r) m.sib = m.index := by
  cases hi : m.index with
  | none =>
    have hmid : m.sib.extractLsb 5 3 = 4#3 := by simp only [MemOp.sib, extractLsb_fields_mid, hi]; rfl
    have h4 : regNum false 4#3 = 4 := by decide
    simp [sibIndex, hmid, MemOp.ext, hi, h4]
  | some p =>
    obtain ⟨i, k⟩ := p
    have hne : i ≠ 4 := by
      cases hb : m.base <;> simp_all [pair32Ok]
    simp [sibIndex, MemOp.sib, MemOp.ext, hi, hne]

theorem takeMemSib_encode {c : Ctx} {m : MemOp} (ha : m.asize ≠ .a16) (hw : m.wf c = true)
    (hs : m.needsSib c = true) (q : Bool) (seg : Option Seg) (r : List Byte) :
    takeMemSib m.asize (m.ext q) seg m.mod (m.sib :: (dispBytes m.dispLen m.disp ++ r)) =
      some (mkMem seg m.asize m.base m.index m.disp, r) := by
  have hdisp := takeDisp_encode hw r
  have hpair := pair32Ok_of_wf ha hw
  have hidx := sibIndex_sib hpair q
  have hfull := fullDisp_of_ne_a16 ha
  cases hbase : m.base with
  | gpr b =>
    have hlow : m.sib.extractLsb 2 0 = lowBits b := by simp [MemOp.sib, hbase]
    have hext : (m.ext q).b = hiBit b := by simp [MemOp.ext, hbase]
    have hno := mod_low_of_gpr ha hbase
    simp only [takeMemSib, hlow, hno, hext, hidx, dispLen32_mod ha hbase, hdisp, regNum_hiBit_lowBits,
      Bool.false_eq_true, if_false, Option.map_some]
  | none =>
    obtain ⟨hmod, hlen⟩ := dispLen_of_not_gpr (m := m) (by simp [hbase])
    have hlow : m.sib.extractLsb 2 0 = 5#3 := by simp [MemOp.sib, hbase]
    rw [hlen, hfull] at hdisp ⊢
    simp [takeMemSib, hmod, hlow, hidx, hdisp]
  | next =>
    rw [needsSib_of_ne_a16 ha] at hs
    cases hi : m.index with
    | none => simp [hbase, hi] at hs
    | some p => simp [hbase, hi, pair32Ok] at hpair

theorem takeMemPlain_encode {c : Ctx} {m : MemOp} (ha : m.asize ≠ .a16) (hw : m.wf c = true)
    (hs : m.needsSib c = false) (q : Bool) (seg : Option Seg) (r : List Byte) :
    takeMemPlain c m.asize (m.ext q) seg m.mod (m.rm c) (dispBytes m.dispLen m.disp ++ r) =
      some (mkMem seg m.asize m.base m.index m.disp, r) := by
  have hdisp := takeDisp_encode hw r
  have hpair := pair32Ok_of_wf ha hw
  have hfull := fullDisp_of_ne_a16 ha
  have hrm := rm_of_ne_a16 (c := c) ha
  rw [hs] at hrm
  rw [needsSib_of_ne_a16 ha, Bool.or_eq_false_iff] at hs
  obtain ⟨hi, hb⟩ := hs
  rw [Option.isSome_eq_false_iff, Option.isNone_iff_eq_none] at hi
  cases hbase : m.base with
  | gpr b =>
    have hext : (m.ext q).b = hiBit b := by simp [MemOp.ext, hbase]
    have hno := mod_low_of_gpr ha hbase
    simp only [takeMemPlain, hrm, hbase, hno, hext, hi, dispLen32_mod ha hbase, hdisp, regNum_hiBit_lowBits,
      Bool.false_eq_true, if_false, Option.map_some]
  | none =>
    obtain ⟨hmod, hlen⟩ := dispLen_of_not_gpr (m := m) (by simp [hbase])
    rw [hlen, hfull] at hdisp ⊢
    simp_all [takeMemPlain]
  | next =>
    obtain ⟨hmod, hlen⟩ := dispLen_of_not_gpr (m := m) (by simp [hbase])
    rw [hlen, hfull] at hdisp ⊢
    have hlong : c.long = true := by simpa [hbase, hi, pair32Ok] using hpair
    simp_all [takeMemPlain]

theorem takeMem_encode {c : Ctx} {m : MemOp} (hw : m.wf c = true) (q : Bool) (seg : Option Seg) (r : List Byte) :
    takeMem c m.asize (m.ext q) seg m.mod (m.rm c) (m.tail c ++ r) =
      some (mkMem seg m.asize m.base m.index m.disp, r) := by
  by_cases ha : m.asize = .a16
  · have hrm : m.rm c = rm16 m.base m.index := by simp [MemOp.rm, ha]
    have htail : m.tail c = dispBytes m.dispLen m.disp := by simp [MemOp.tail, MemOp.needsSib, ha]
    rw [hrm, htail, ha]
    exact takeMem16_encode ha hw seg r
  · rw [takeMem_of_ne_a16 ha]
    cases hs : m.needsSib c with
    | true =>
      have hrm : m.rm c = 4#3 := by simp [rm_of_ne_a16 ha, hs]
      rw [if_pos hrm, MemOp.tail, hs]
      exact takeMemSib_encode ha hw hs q seg r
    | false =>
      have hrm : m.rm c ≠ 4#3 := by
        rw [rm_of_ne_a16 ha, hs]
        rw [needsSib_of_ne_a16 ha, Bool.or_eq_false_iff] at hs
        cases hbase : m.base <;> simp_all
      rw [if_neg hrm, MemOp.tail, hs]
      exact takeMemPlain_encode ha hw hs q seg r

/-- An `r/m` field as the decoder gives it back where the segment override in force is `seg`. -/
def fieldSeen (seg : Option Seg) : Sum (BitVec 3) MemOp → Sum (BitVec 3) MemOp
  | .inl n => .inl n
  | .inr m => .inr (mkMem seg m.asize m.base m.index m.disp)

/-- What the encoder needs of an `r/m` field: its memory operand is well formed, read at address size `a`, and its
extension bits are those of `e`. -/
def fieldOk (c : Ctx) (a : AddrSize) (e : Ext) : Sum (BitVec 3) MemOp → Prop
  | .inl _ => True
  | .inr m => m.wf c = true ∧ m.asize = a ∧ e = m.ext e.r

theorem takeModRM_encode {c : Ctx} {a : AddrSize} {e : Ext} {f : Sum (BitVec 3) MemOp} (hf : fieldOk c a e f)
    (seg : Option Seg) (reg : BitVec 3) (r : List Byte) :
    takeModRM c a e seg (modRMBytes c reg f ++ r) = some (⟨reg, fieldSeen seg f⟩, r) := by
  cases f with
  | inl n => simp [modRMBytes, takeModRM, fieldSeen]
  | inr m =>
    obtain ⟨hw, rfl, he⟩ := hf
    rw [he]
    simp [modRMBytes, takeModRM, fieldSeen, mod_ne_three, takeMem_encode hw]

/-! ### What the decoder can read as a memory operand (R65 to R68)

Behind ModRM there is at most a SIB byte, and then a displacement whose length is already fixed. `AddressRead` says what
is known of the parts by then; that operands are well formed, how many bytes they take and what happens when the bytes
run out all follow from `takeMem_cases`. -/

/-- The extension bits of one operand are among those of another. -/
def Ext.within (x e : Ext) : Prop :=
  (x.r = true → e.r = true) ∧ (x.x = true → e.x = true) ∧ (x.b = true → e.b = true)

/-- A base and an index that the decoder may answer at address size `a`, before a displacement of `n` bytes. -/
structure AddressRead (c : Ctx) (a : AddrSize) (e : Ext) (sibLen n : Nat) (base : AddrBase)
    (index : Option (Fin 16 × Fin 4)) : Prop where
  lens : n = 0 ∨ n = 1 ∨ n = 2 ∨ n = 4
  disp16 : a = .a16 → n ≤ 2
  pair : if a = .a16 then pair16Ok base index = true else pair32Ok c base index = true
  ext : ∀ m : MemOp, m.base = base → m.index = index → (m.ext e.r).within e
  short : ∀ m : MemOp, m.asize = a → m.base = base → m.index = index → dispFits n m.disp →
    (m.tail c).length ≤ sibLen + n

/-- A memory operand from what `takeDisp` answers. -/
def memOfDisp (seg : Option Seg) (a : AddrSize) (base : AddrBase) (index : Option (Fin 16 × Fin 4))
    (o : Option (BitVec 32 × List Byte)) : Option (MemOp × List Byte) :=
  o.map fun (d, r') => (mkMem seg a base index d, r')

theorem length_tail (c : Ctx) (m : MemOp) : (m.tail c).length = (m.needsSib c).toNat + m.dispLen := by
  cases h : m.needsSib c with
  | true => simp [MemOp.tail, h, Nat.add_comm]
  | false => simp [MemOp.tail, h]

theorem pair16_ok (rm : BitVec 3) : pair16Ok (pair16 rm).1 (pair16 rm).2 = true := by revert rm; decide

/-- No register of 16-bit addressing has an extension bit. -/
theorem ext_of_pair16 {m : MemOp} {rm : BitVec 3} (hb : m.base = (pair16 rm).1) (hi : m.index = (pair16 rm).2)
    (q : Bool) : m.ext q = ⟨q, false, false⟩ := by
  simp only [MemOp.ext, hb, hi]
  clear hb hi
  revert rm q
  decide

theorem needsDisp_of_pair16 {m : MemOp} {b : Fin 16} {rm : BitVec 3} (ha : m.asize = .a16) (hrm : rm ≠ 6#3)
    (hb : m.base = .gpr b) (hp : m.base = (pair16 rm).1) (hi : m.index = (pair16 rm).2) : m.needsDisp b = false := by
  rw [hb] at hp
  simp only [MemOp.needsDisp, ha, hi]
  revert hrm hp
  clear hi hb ha
  revert rm b
  decide

theorem takeMem16_eq {c : Ctx} {mod : BitVec 2} (hmod : mod ≠ 3#2) (rm : BitVec 3) (e : Ext) (seg : Option Seg) :
    ∃ n base index, AddressRead c .a16 e 0 n base index ∧
      ∀ r, takeMem16 seg mod rm r = memOfDisp seg .a16 base index (takeDisp n r) := by
  by_cases h6 : mod = 0#2 ∧ rm = 6#3
  · refine ⟨2, .none, none, ⟨by omega, fun _ => le_rfl, by simp [pair16Ok], ?_, ?_⟩, fun r => ?_⟩
    · intro m hb hi
      simp [Ext.within, MemOp.ext, hb, hi]
    · intro m ha hb hi _
      rw [length_tail, (dispLen_of_not_gpr (by simp [hb])).2, ha]
      simp [MemOp.needsSib, ha, AddrSize.fullDisp]
    · simp [takeMem16, h6, memOfDisp]
  · have hlens : mod.toNat = 0 ∨ mod.toNat = 1 ∨ mod.toNat = 2 := by clear h6; revert mod; decide
    refine ⟨mod.toNat, (pair16 rm).1, (pair16 rm).2, ⟨by omega, fun _ => by omega, by simp [pair16_ok], ?_, ?_⟩,
      fun r => ?_⟩
    · intro m hb hi
      simp [Ext.within, ext_of_pair16 hb hi]
    · intro m ha hb hi hfit
      obtain ⟨b, hgpr⟩ : ∃ b, (pair16 rm).1 = .gpr b := by
        clear h6 hb hi
        revert rm
        decide
      have hzero : mod.toNat = 0 → m.needsDisp b = false := fun h0 =>
        needsDisp_of_pair16 ha (fun hrm => h6 ⟨BitVec.eq_of_toNat_eq h0, hrm⟩) (hb.trans hgpr) hb hi
      have hlen := dispLen_le_of_dispFits (hb.trans hgpr) hfit hzero (by simp only [ha, AddrSize.fullDisp]; omega)
      simpa [length_tail, MemOp.needsSib, ha] using hlen
    · have hcond : (mod = 0#2 && rm = 6#3) = false := by simpa using h6
      simp only [takeMem16, hcond, memOfDisp, Bool.false_eq_true, if_false]

theorem dispLen32_cases {mod : BitVec 2} (hmod : mod ≠ 3#2) :
    (dispLen32 mod = 0 ∧ mod = 0#2) ∨ dispLen32 mod = 1 ∨ dispLen32 mod = 4 := by
  revert mod; decide

/-- The displacement behind a base register of 32-bit or 64-bit addressing is at least as long as the encoder's. -/
theorem dispLen_le_dispLen32 {m : MemOp} {mod : BitVec 2} {x : Bool} {rm : BitVec 3} (ha : m.asize ≠ .a16)
    (hmod : mod ≠ 3#2) (hno : ¬ (mod = 0#2 ∧ rm = 5#3)) (hb : m.base = .gpr (regNum x rm))
    (hfit : dispFits (dispLen32 mod) m.disp) : m.dispLen ≤ dispLen32 mod := by
  have hfull := fullDisp_of_ne_a16 ha
  have hneeds : m.needsDisp (regNum x rm) = decide (rm = 5#3) := by
    cases h : m.asize <;> simp_all [MemOp.needsDisp]
  have hcases := dispLen32_cases hmod
  refine dispLen_le_of_dispFits hb hfit (fun h0 => ?_) (by omega)
  have hm0 : mod = 0#2 := by
    rcases hcases with ⟨-, h⟩ | h | h
    · exact h
    all_goals omega
  simpa [hneeds] using fun h5 => hno ⟨hm0, h5⟩

theorem takeMemPlain_eq {c : Ctx} {a : AddrSize} {e : Ext} {mod : BitVec 2} {rm : BitVec 3} (ha : a ≠ .a16)
    (he : c.long = false → e = Ext.none) (hmod : mod ≠ 3#2) (h4 : rm ≠ 4#3) (seg : Option Seg) :
    ∃ n base index, AddressRead c a e 0 n base index ∧
      ∀ r, takeMemPlain c a e seg mod rm r = memOfDisp seg a base index (takeDisp n r) := by
  by_cases h5 : mod = 0#2 ∧ rm = 5#3
  · refine ⟨4, if c.long then .next else .none, none, ⟨by omega, fun h => absurd h ha, ?_, ?_, ?_⟩,
      fun r => ?_⟩
    · cases hc : c.long <;> simp [ha, pair32Ok, hc]
    · intro m hb hi
      cases hc : c.long <;> simp [Ext.within, MemOp.ext, hb, hi, hc]
    · intro m hasize hb hi _
      have hne : m.asize ≠ .a16 := hasize ▸ ha
      rw [length_tail, needsSib_of_ne_a16 hne]
      cases hc : c.long <;> simp [hc] at hb <;>
        simp [hb, hi, dispLen_of_not_gpr (m := m) (by simp [hb]), fullDisp_of_ne_a16 hne]
    · simp [takeMemPlain, h5, memOfDisp]
  · refine ⟨dispLen32 mod, .gpr (regNum e.b rm), none, ⟨?_, fun h => absurd h ha, ?_, ?_, ?_⟩, fun r => ?_⟩
    · have hcases := dispLen32_cases hmod
      omega
    · simpa [ha, pair32Ok] using regOk_regNum rm fun h => by simp [he h, Ext.none]
    · intro m hb hi
      simp [Ext.within, MemOp.ext, hb, hi]
    · intro m hasize hb hi hfit
      have hne : m.asize ≠ .a16 := hasize ▸ ha
      have hlen := dispLen_le_dispLen32 hne hmod h5 hb hfit
      rw [length_tail, needsSib_of_ne_a16 hne]
      simpa [hb, hi, h4] using hlen
    · have hcond : (mod = 0#2 && rm = 5#3) = false := by simpa using h5
      simp only [takeMemPlain, hcond, memOfDisp, Bool.false_eq_true, if_false]

theorem sibIndex_ok {c : Ctx} {e : Ext} (he : c.long = false → e = Ext.none) (sib : Byte) :
    ∀ i k, sibIndex e sib = some (i, k) → regOk c i = true ∧ i ≠ 4 ∧ hiBit i = e.x := by
  intro i k h
  unfold sibIndex at h
  split at h
  · cases h
  · next hne =>
    cases h
    exact ⟨regOk_regNum _ fun h => by simp [he h, Ext.none], hne, hiBit_regNum _ _⟩

theorem takeMemSib_eq {c : Ctx} {a : AddrSize} {e : Ext} {mod : BitVec 2} (ha : a ≠ .a16)
    (he : c.long = false → e = Ext.none) (hmod : mod ≠ 3#2) (seg : Option Seg) (sib : Byte) :
    ∃ n base index, AddressRead c a e 1 n base index ∧
      ∀ r, takeMemSib a e seg mod (sib :: r) = memOfDisp seg a base index (takeDisp n r) := by
  have hidx := sibIndex_ok he sib
  by_cases h5 : mod = 0#2 ∧ sib.extractLsb 2 0 = 5#3
  · refine ⟨4, .none, sibIndex e sib, ⟨by omega, fun h => absurd h ha, ?_, ?_, ?_⟩, fun r => ?_⟩
    · cases hi : sibIndex e sib with
      | none => simp [ha, pair32Ok]
      | some p => simp [ha, pair32Ok, hidx p.1 p.2 hi]
    · intro m hb hi
      cases hs : sibIndex e sib with
      | none => simp [Ext.within, MemOp.ext, hb, hi, hs]
      | some p => simp [Ext.within, MemOp.ext, hb, hi, hs, hidx p.1 p.2 hs]
    · intro m hasize hb hi _
      have hne : m.asize ≠ .a16 := hasize ▸ ha
      rw [length_tail, (dispLen_of_not_gpr (by simp [hb])).2, fullDisp_of_ne_a16 hne]
      have := Bool.toNat_le (m.needsSib c)
      omega
    · have hcond : (mod = 0#2 && sib.extractLsb 2 0 = 5#3) = true := by simpa using h5
      simp only [takeMemSib, hcond, memOfDisp, if_true]
  · refine ⟨dispLen32 mod, .gpr (regNum e.b (sib.extractLsb 2 0)), sibIndex e sib,
      ⟨?_, fun h => absurd h ha, ?_, ?_, ?_⟩, fun r => ?_⟩
    · have hcases := dispLen32_cases hmod
      omega
    · have hbase : regOk c (regNum e.b (sib.extractLsb 2 0)) = true :=
        regOk_regNum _ fun h => by simp [he h, Ext.none]
      cases hi : sibIndex e sib with
      | none => simpa [ha, pair32Ok] using hbase
      | some p => simpa [ha, pair32Ok, hidx p.1 p.2 hi] using hbase
    · intro m hb hi
      cases hs : sibIndex e sib with
      | none => simp [Ext.within, MemOp.ext, hb, hi, hs]
      | some p => simp [Ext.within, MemOp.ext, hb, hi, hs, hidx p.1 p.2 hs]
    · intro m hasize hb hi hfit
      have hlen := dispLen_le_dispLen32 (hasize ▸ ha) hmod h5 hb hfit
      rw [length_tail]
      have := Bool.toNat_le (m.needsSib c)
      omega
    · have hcond : (mod = 0#2 && sib.extractLsb 2 0 = 5#3) = false := by simpa using h5
      simp only [takeMemSib, hcond, memOfDisp, Bool.false_eq_true, if_false]

theorem takeMem_cases {c : Ctx} {e : Ext} {mod : BitVec 2} (he : c.long = false → e = Ext.none)
    (hmod : mod ≠ 3#2) (a : AddrSize) (seg : Option Seg) (rm : BitVec 3) :
    (∃ n base index, AddressRead c a e 0 n base index ∧
      ∀ r, takeMem c a e seg mod rm r = memOfDisp seg a base index (takeDisp n r)) ∨
    (takeMem c a e seg mod rm [] = none ∧
      ∀ sib, ∃ n base index, AddressRead c a e 1 n base index ∧
        ∀ r, takeMem c a e seg mod rm (sib :: r) = memOfDisp seg a base index (takeDisp n r)) := by
  by_cases ha : a = .a16
  · subst ha
    exact .inl (takeMem16_eq hmod rm e seg)
  · simp only [takeMem_of_ne_a16 ha]
    by_cases h4 : rm = 4#3
    · simp only [h4, if_true]
      exact .inr ⟨rfl, takeMemSib_eq ha he hmod seg⟩
    · simp only [h4, if_false]
      exact .inl (takeMemPlain_eq ha he hmod h4 seg)

theorem memOfDisp_some {seg : Option Seg} {a : AddrSize} {base : AddrBase} {index : Option (Fin 16 × Fin 4)}
    {n : Nat} {r r' : List Byte} {m : MemOp} (h : memOfDisp seg a base index (takeDisp n r) = some (m, r')) :
    m = mkMem seg a base index m.disp ∧ takeDisp n r = some (m.disp, r') := by
  cases ht : takeDisp n r with
  | none => simp [ht, memOfDisp] at h
  | some p =>
    simp only [ht, memOfDisp, Option.map_some, Option.some.injEq, Prod.mk.injEq] at h
    obtain ⟨rfl, rfl⟩ := h
    exact ⟨rfl, rfl⟩

/-- What the encoder can do with a memory operand that the decoder has read from `len` bytes. -/
structure MemRead (c : Ctx) (a : AddrSize) (e : Ext) (seg : Option Seg) (len : Nat) (m : MemOp) : Prop where
  asize : m.asize = a
  seg : m.seg = seg.getD (defaultSeg m.base)
  wf : m.wf c = true
  ext : (m.ext e.r).within e
  short : (m.tail c).length ≤ len

/-- The address sizes a mode has: 64 bits in 64-bit mode only, 16 bits outside it only (R69). -/
def addrSizeOk (c : Ctx) (a : AddrSize) : Prop := (a = .a16 → c.long = false) ∧ (a = .a64 → c.long = true)

theorem addrSize_ok (c : Ctx) (b : Bool) : addrSizeOk c (c.addrSize b) := by
  obtain ⟨mode, d⟩ := c
  unfold addrSizeOk
  cases mode <;> revert d b <;> decide

theorem AddressRead.memRead {c : Ctx} {a : AddrSize} {e : Ext} {seg : Option Seg} {k n : Nat} {base : AddrBase}
    {index : Option (Fin 16 × Fin 4)} {r r' : List Byte} {m : MemOp} (ha : addrSizeOk c a)
    (hread : AddressRead c a e k n base index)
    (h : memOfDisp seg a base index (takeDisp n r) = some (m, r')) :
    MemRead c a e seg (k + n) m ∧ r.length = n + r'.length := by
  obtain ⟨hm, ht⟩ := memOfDisp_some h
  obtain ⟨hfit, hlen⟩ := takeDisp_some ht
  have hasize : m.asize = a := by rw [hm]; rfl
  have hbase : m.base = base := by rw [hm]; rfl
  have hindex : m.index = index := by rw [hm]; rfl
  have hseg : m.seg = seg.getD (defaultSeg m.base) := by rw [hbase, hm]; rfl
  have hpair := hread.pair
  rw [← hbase, ← hindex] at hpair
  have hwf : m.wf c = true := by
    cases a with
    | a16 =>
      have hpair16 : pair16Ok m.base m.index = true := hpair
      simpa [MemOp.wf, hasize, ha.1 rfl, hpair16] using dispFits_two hfit (hread.disp16 rfl)
    | a32 => simpa [MemOp.wf, hasize] using hpair
    | a64 => simpa [MemOp.wf, hasize, ha.2 rfl] using hpair
  exact ⟨⟨hasize, hseg, hwf, hread.ext m hbase hindex, hread.short m hasize hbase hindex hfit⟩, hlen⟩

theorem memOfDisp_take {seg : Option Seg} {a : AddrSize} {base : AddrBase} {index : Option (Fin 16 × Fin 4)}
    {n k : Nat} {r r' : List Byte} {m : MemOp} (h : memOfDisp seg a base index (takeDisp n r) = some (m, r'))
    (hk : k + r'.length < r.length) : memOfDisp seg a base index (takeDisp n (r.take k)) = none := by
  rw [takeDisp_take (memOfDisp_some h).2 hk]
  rfl

theorem AddressRead.isSome {c : Ctx} {a : AddrSize} {e : Ext} {seg : Option Seg} {k n : Nat} {base : AddrBase}
    {index : Option (Fin 16 × Fin 4)} {r : List Byte} (hread : AddressRead c a e k n base index)
    (hr : 4 ≤ r.length) : (memOfDisp seg a base index (takeDisp n r)).isSome = true := by
  have hn : n ≤ r.length := by
    have := hread.lens
    omega
  simpa [memOfDisp] using takeDisp_isSome hread.lens hn

theorem takeMem_some {c : Ctx} {a : AddrSize} {e : Ext} {seg : Option Seg} {mod : BitVec 2} {rm : BitVec 3}
    {r r' : List Byte} {m : MemOp} (ha : addrSizeOk c a) (he : c.long = false → e = Ext.none) (hmod : mod ≠ 3#2)
    (h : takeMem c a e seg mod rm r = some (m, r')) :
    ∃ len, MemRead c a e seg len m ∧ r.length = len + r'.length := by
  rcases takeMem_cases he hmod a seg rm with ⟨n, base, index, hread, heq⟩ | ⟨hnil, hcons⟩
  · rw [heq] at h
    exact ⟨0 + n, (hread.memRead ha h).1, by simpa using (hread.memRead ha h).2⟩
  · cases r with
    | nil => simp [hnil] at h
    | cons sib r1 =>
      obtain ⟨n, base, index, hread, heq⟩ := hcons sib
      rw [heq] at h
      refine ⟨1 + n, (hread.memRead ha h).1, ?_⟩
      have hlen := (hread.memRead ha h).2
      simp only [List.length_cons]
      omega

theorem takeMem_take {c : Ctx} {a : AddrSize} {e : Ext} {seg : Option Seg} {mod : BitVec 2} {rm : BitVec 3}
    {r r' : List Byte} {m : MemOp} {k : Nat} (he : c.long = false → e = Ext.none) (hmod : mod ≠ 3#2)
    (h : takeMem c a e seg mod rm r = some (m, r')) (hk : k + r'.length < r.length) :
    takeMem c a e seg mod rm (r.take k) = none := by
  rcases takeMem_cases he hmod a seg rm with ⟨n, base, index, -, heq⟩ | ⟨hnil, hcons⟩
  · rw [heq] at h ⊢
    exact memOfDisp_take h hk
  · cases r with
    | nil => simp [hnil] at h
    | cons sib r1 =>
      obtain ⟨n, base, index, -, heq⟩ := hcons sib
      rw [heq] at h
      cases k with
      | zero => simpa using hnil
      | succ k =>
        rw [List.take_succ_cons, heq]
        exact memOfDisp_take h (by simp only [List.length_cons] at hk; omega)

theorem takeMem_isSome {c : Ctx} {e : Ext} {mod : BitVec 2} {r : List Byte} (he : c.long = false → e = Ext.none)
    (hmod : mod ≠ 3#2) (a : AddrSize) (seg : Option Seg) (rm : BitVec 3) (hr : 5 ≤ r.length) :
    (takeMem c a e seg mod rm r).isSome = true := by
  rcases takeMem_cases he hmod a seg rm with ⟨n, base, index, hread, heq⟩ | ⟨-, hcons⟩
  · rw [heq]
    exact hread.isSome (by omega)
  · match r, hr with
    | sib :: r1, hr =>
      obtain ⟨n, base, index, hread, heq⟩ := hcons sib
      rw [heq]
      exact hread.isSome (by simpa using hr)

/-! ### ModRM with its operand (R64, R76) -/

/-- What the encoder can do with a ModRM byte and operand that the decoder has read. -/
def FieldRead (c : Ctx) (a : AddrSize) (e : Ext) (seg : Option Seg) : Sum (BitVec 3) MemOp → Prop
  | .inl _ => True
  | .inr m => m.asize = a ∧ m.seg = seg.getD (defaultSeg m.base) ∧ m.wf c = true ∧ (m.ext e.r).within e

theorem takeModRM_cons (c : Ctx) (a : AddrSize) (e : Ext) (seg : Option Seg) (b : Byte) (r : List Byte) :
    takeModRM c a e seg (b :: r) =
      if b.extractLsb 7 6 = 3#2 then some (⟨b.extractLsb 5 3, .inl (b.extractLsb 2 0)⟩, r)
      else (takeMem c a e seg (b.extractLsb 7 6) (b.extractLsb 2 0) r).map fun p =>
        (⟨b.extractLsb 5 3, .inr p.1⟩, p.2) := rfl

theorem takeModRM_some {c : Ctx} {a : AddrSize} {e : Ext} {seg : Option Seg} {r r' : List Byte} {q : ModRM}
    (ha : addrSizeOk c a) (he : c.long = false → e = Ext.none) (h : takeModRM c a e seg r = some (q, r')) :
    FieldRead c a e seg q.rm ∧ (modRMBytes c q.reg q.rm).length + r'.length ≤ r.length := by
  cases r with
  | nil => cases h
  | cons b r1 =>
    rw [takeModRM_cons] at h
    split at h
    · cases h
      exact ⟨trivial, by simp [modRMBytes]; omega⟩
    · next hmod =>
      obtain ⟨⟨m, r2⟩, hm, heq⟩ := Option.map_eq_some_iff.1 h
      cases heq
      obtain ⟨len, hread, hlen⟩ := takeMem_some ha he hmod hm
      have hshort := hread.short
      refine ⟨⟨hread.asize, hread.seg, hread.wf, hread.ext⟩, ?_⟩
      simp only [modRMBytes, List.length_cons]
      omega

theorem takeModRM_take {c : Ctx} {a : AddrSize} {e : Ext} {seg : Option Seg} {r r' : List Byte} {q : ModRM} {k : Nat}
    (he : c.long = false → e = Ext.none) (h : takeModRM c a e seg r = some (q, r'))
    (hk : k + r'.length < r.length) : takeModRM c a e seg (r.take k) = none := by
  cases r with
  | nil => cases h
  | cons b r1 =>
    cases k with
    | zero => rfl
    | succ k =>
      simp only [List.length_cons] at hk
      rw [List.take_succ_cons]
      rw [takeModRM_cons] at h ⊢
      split at h
      · cases h
        omega
      · next hmod =>
        obtain ⟨⟨m, r2⟩, hm, heq⟩ := Option.map_eq_some_iff.1 h
        cases heq
        have hk' : k + 1 + r2.length < r1.length + 1 := hk
        rw [if_neg hmod, takeMem_take he hmod hm (by omega)]
        rfl

/-- Six bytes always suffice for ModRM, SIB and displacement. -/
theorem takeModRM_isSome {c : Ctx} {e : Ext} {r : List Byte} (he : c.long = false → e = Ext.none) (a : AddrSize)
    (seg : Option Seg) (hr : 6 ≤ r.length) : (takeModRM c a e seg r).isSome = true := by
  match r, hr with
  | b :: r1, hr =>
    rw [takeModRM_cons]
    split
    · rfl
    · next hmod => simpa using takeMem_isSome he hmod a seg _ (by simpa using hr)

end Sys2Proof

/-! ## Legacy prefixes and REX (spec/30_encoding.md R63, R73, R77 steps 1 and 2) -/

namespace Sys2Proof

/-- A list of legacy prefixes. -/
def AllPrefixes (c : Ctx) (ps : List Byte) : Prop := ∀ b ∈ ps, (Prefixes.empty.note c b).isSome = true

/-- What the scan notes of a list of legacy prefixes. -/
def prefixesOf (c : Ctx) (ps : List Byte) : Prefixes := (scanPrefixes c Prefixes.empty ps).1

theorem noteSeg_flags (c : Ctx) (p : Prefixes) (g : Seg) :
    (p.noteSeg c g).has66 = p.has66 ∧ (p.noteSeg c g).has67 = p.has67 ∧ (p.noteSeg c g).hasF0 = p.hasF0 ∧
      (p.noteSeg c g).hasF2 = p.hasF2 ∧ (p.noteSeg c g).hasF3 = p.hasF3 := by
  unfold Prefixes.noteSeg
  split <;> simp

/-- The bytes that are legacy prefixes (R63). -/
def prefixBytes : List Byte := [0x66, 0x67, 0xF0, 0xF2, 0xF3, 0x2E, 0x36, 0x3E, 0x26, 0x64, 0x65]

/-- What one byte can do to the notes of the scan. -/
inductive NoteCases (c : Ctx) (p : Prefixes) : Byte → Option Prefixes → Prop where
  | opSize : NoteCases c p 0x66 (some { p with has66 := true })
  | addrSize : NoteCases c p 0x67 (some { p with has67 := true })
  | lock : NoteCases c p 0xF0 (some { p with hasF0 := true })
  | repne : NoteCases c p 0xF2 (some { p with hasF2 := true })
  | rep : NoteCases c p 0xF3 (some { p with hasF3 := true })
  | oldSeg (g : Seg) (h : g ≠ .fs ∧ g ≠ .gs) : NoteCases c p g.byte (some (p.noteSeg c g))
  | newSeg (g : Seg) (h : g = .fs ∨ g = .gs) : NoteCases c p g.byte (some { p with seg := some g })
  | other (b : Byte) (h : b ∉ prefixBytes) : NoteCases c p b none

theorem note_cases (c : Ctx) (p : Prefixes) (b : Byte) : NoteCases c p b (p.note c b) := by
  unfold Prefixes.note
  repeat' split
  all_goals try subst b
  · exact .opSize
  · exact .addrSize
  · exact .lock
  · exact .repne
  · exact .rep
  · exact .oldSeg .cs (by decide)
  · exact .oldSeg .ss (by decide)
  · exact .oldSeg .ds (by decide)
  · exact .oldSeg .es (by decide)
  · exact .newSeg .fs (by decide)
  · exact .newSeg .gs (by decide)
  · exact .other b (by simp_all [prefixBytes])

theorem seg_byte_mem (g : Seg) : g.byte ∈ prefixBytes := by cases g <;> decide

/-- Which bytes are legacy prefixes does not depend on what stands before them. -/
theorem note_isSome (c : Ctx) (p : Prefixes) (b : Byte) : (p.note c b).isSome = decide (b ∈ prefixBytes) := by
  have h := note_cases c p b
  generalize p.note c b = o at h
  cases h with
  | oldSeg g | newSeg g => simp [seg_byte_mem]
  | other _ hb => simp [hb]
  | _ => rfl

theorem note_of_isSome {c : Ctx} {b : Byte} (p : Prefixes) (h : (Prefixes.empty.note c b).isSome = true) :
    ∃ p', p.note c b = some p' := by
  rw [note_isSome, ← note_isSome c p] at h
  exact Option.isSome_iff_exists.1 h

theorem seg_byte_ne (g : Seg) :
    g.byte ≠ 0x66#8 ∧ g.byte ≠ 0x67#8 ∧ g.byte ≠ 0xF0#8 ∧ g.byte ≠ 0xF2#8 ∧ g.byte ≠ 0xF3#8 := by
  cases g <;> decide

theorem note_flags {c : Ctx} {p p' : Prefixes} {b : Byte} (h : p.note c b = some p') :
    p'.has66 = (p.has66 || b = 0x66) ∧ p'.has67 = (p.has67 || b = 0x67) ∧ p'.hasF0 = (p.hasF0 || b = 0xF0) ∧
      p'.hasF2 = (p.hasF2 || b = 0xF2) ∧ p'.hasF3 = (p.hasF3 || b = 0xF3) := by
  have hc := note_cases c p b
  rw [h] at hc
  cases hc with
  | oldSeg g => simp [noteSeg_flags, seg_byte_ne]
  | newSeg g => simp [seg_byte_ne]
  | _ => simp

theorem scanPrefixes_cons (c : Ctx) (p p' : Prefixes) (b : Byte) (r : List Byte) (h : p.note c b = some p') :
    scanPrefixes c p (b :: r) = scanPrefixes c p' r := by
  simp [scanPrefixes, h]

theorem scanPrefixes_append {c : Ctx} {ps : List Byte} (hps : AllPrefixes c ps) (p : Prefixes) (r : List Byte) :
    scanPrefixes c p (ps ++ r) = scanPrefixes c (scanPrefixes c p ps).1 r := by
  induction ps generalizing p with
  | nil => rfl
  | cons b ps ih =>
    obtain ⟨hb, hps⟩ := List.forall_mem_cons.1 hps
    obtain ⟨p', hp⟩ := note_of_isSome p hb
    rw [List.cons_append, scanPrefixes_cons _ _ _ _ _ hp, scanPrefixes_cons _ _ _ _ _ hp]
    exact ih hps p'

theorem scanPrefixes_flags {c : Ctx} {ps : List Byte} (hps : AllPrefixes c ps) (p : Prefixes) :
    (scanPrefixes c p ps).1.has66 = (p.has66 || (0x66 : Byte) ∈ ps) ∧
    (scanPrefixes c p ps).1.has67 = (p.has67 || (0x67 : Byte) ∈ ps) ∧
    (scanPrefixes c p ps).1.hasF0 = (p.hasF0 || (0xF0 : Byte) ∈ ps) ∧
    (scanPrefixes c p ps).1.hasF2 = (p.hasF2 || (0xF2 : Byte) ∈ ps) ∧
    (scanPrefixes c p ps).1.hasF3 = (p.hasF3 || (0xF3 : Byte) ∈ ps) := by
  induction ps generalizing p with
  | nil => simp [scanPrefixes]
  | cons b ps ih =>
    obtain ⟨hb, hps⟩ := List.forall_mem_cons.1 hps
    obtain ⟨p', hp⟩ := note_of_isSome p hb
    rw [scanPrefixes_cons _ _ _ _ _ hp]
    obtain ⟨h66, h67, hF0, hF2, hF3⟩ := ih hps p'
    obtain ⟨n66, n67, nF0, nF2, nF3⟩ := note_flags hp
    simp only [h66, h67, hF0, hF2, hF3, n66, n67, nF0, nF2, nF3, List.mem_cons, Bool.decide_or, Bool.or_assoc,
      eq_comm (a := b), and_self]

theorem prefixesOf_has66 {c : Ctx} {ps : List Byte} (hps : AllPrefixes c ps) :
    (prefixesOf c ps).has66 = decide ((0x66 : Byte) ∈ ps) := (scanPrefixes_flags hps _).1.trans (Bool.false_or _)

theorem prefixesOf_has67 {c : Ctx} {ps : List Byte} (hps : AllPrefixes c ps) :
    (prefixesOf c ps).has67 = decide ((0x67 : Byte) ∈ ps) := (scanPrefixes_flags hps _).2.1.trans (Bool.false_or _)

theorem prefixesOf_hasF0 {c : Ctx} {ps : List Byte} (hps : AllPrefixes c ps) :
    (prefixesOf c ps).hasF0 = decide ((0xF0 : Byte) ∈ ps) := (scanPrefixes_flags hps _).2.2.1.trans (Bool.false_or _)

theorem prefixesOf_hasF2 {c : Ctx} {ps : List Byte} (hps : AllPrefixes c ps) :
    (prefixesOf c ps).hasF2 = decide ((0xF2 : Byte) ∈ ps) :=
  (scanPrefixes_flags hps _).2.2.2.1.trans (Bool.false_or _)

theorem prefixesOf_hasF3 {c : Ctx} {ps : List Byte} (hps : AllPrefixes c ps) :
    (prefixesOf c ps).hasF3 = decide ((0xF3 : Byte) ∈ ps) :=
  (scanPrefixes_flags hps _).2.2.2.2.trans (Bool.false_or _)

/-- How many prefixes it takes at least to leave a note: one for each flag, one for an override. -/
def Prefixes.cost (p : Prefixes) : Nat :=
  p.has66.toNat + p.has67.toNat + p.hasF0.toNat + p.seg.isSome.toNat

theorem noteSeg_cost_le (c : Ctx) (p : Prefixes) (g : Seg) : (p.noteSeg c g).cost ≤ p.cost + 1 := by
  unfold Prefixes.noteSeg
  split
  · omega
  · simp only [Prefixes.cost, Option.isSome_some, Bool.toNat_true]
    omega

theorem note_cost_le {c : Ctx} {p p' : Prefixes} {b : Byte} (h : p.note c b = some p') : p'.cost ≤ p.cost + 1 := by
  have hc := note_cases c p b
  rw [h] at hc
  cases hc with
  | oldSeg g => exact noteSeg_cost_le c p g
  | _ =>
    simp only [Prefixes.cost, Option.isSome_some, Bool.toNat_true]
    omega

theorem scanPrefixes_cost_le (c : Ctx) (p : Prefixes) (ps : List Byte) :
    (scanPrefixes c p ps).1.cost ≤ p.cost + ps.length := by
  induction ps generalizing p with
  | nil => simp [scanPrefixes]
  | cons b ps ih =>
    cases hp : p.note c b with
    | none => simp [scanPrefixes, hp]
    | some p' =>
      rw [scanPrefixes_cons _ _ _ _ _ hp, List.length_cons]
      have := ih p'
      have := note_cost_le hp
      omega

theorem prefixesOf_cost_le (c : Ctx) (ps : List Byte) : (prefixesOf c ps).cost ≤ ps.length := by
  simpa [prefixesOf, Prefixes.cost, Prefixes.empty] using scanPrefixes_cost_le c Prefixes.empty ps

/-- Every byte string is legacy prefixes and a rest that begins with none. -/
theorem scanPrefixes_split (c : Ctx) (p : Prefixes) (bytes : List Byte) :
    ∃ ps, AllPrefixes c ps ∧ bytes = ps ++ (scanPrefixes c p bytes).2 ∧
      (scanPrefixes c p ps).1 = (scanPrefixes c p bytes).1 := by
  induction bytes generalizing p with
  | nil => exact ⟨[], by simp [AllPrefixes], rfl, rfl⟩
  | cons b r ih =>
    cases hp : p.note c b with
    | none => exact ⟨[], by simp [AllPrefixes], by simp [scanPrefixes, hp], by simp [scanPrefixes, hp]⟩
    | some p' =>
      obtain ⟨ps, hps, hr, hscan⟩ := ih p'
      refine ⟨b :: ps, List.forall_mem_cons.2 ⟨?_, hps⟩, ?_, ?_⟩
      · rw [note_isSome, ← note_isSome c p, hp]
        rfl
      · rw [scanPrefixes_cons _ _ _ _ _ hp, List.cons_append, ← hr]
      · rw [scanPrefixes_cons _ _ _ _ _ hp, scanPrefixes_cons _ _ _ _ _ hp, hscan]

/-! ### REX -/

/-- No byte, or one REX byte of 64-bit mode. -/
def RexBytes (c : Ctx) (rex : List Byte) : Prop :=
  rex = [] ∨ ∃ b : Byte, rex = [b] ∧ c.mode = .long64 ∧ b.extractLsb' 4 4 = 4

/-- The extension bits of a REX byte, where there is one. -/
def rexExt : List Byte → Option Ext
  | [] => none
  | b :: _ => rexOf b

/-- What is left of a byte string begins, if at all, with `0F`, `C4` or `C5`. -/
def StartsForm (r : List Byte) : Prop := ∀ b ∈ r.head?, b = 0x0F ∨ b = 0xC4 ∨ b = 0xC5

theorem startsForm_cons {b : Byte} (h : b = 0x0F ∨ b = 0xC4 ∨ b = 0xC5) (r : List Byte) : StartsForm (b :: r) := by
  simpa [StartsForm] using h

theorem StartsForm.take {r : List Byte} (h : StartsForm r) (k : Nat) : StartsForm (r.take k) := by
  cases r with
  | nil => simpa using h
  | cons b r => cases k <;> simp_all [StartsForm]

theorem note_of_startsForm {c : Ctx} {p : Prefixes} {b : Byte} {r : List Byte} (h : StartsForm (b :: r)) :
    p.note c b = none ∧ rexOf b = none := by
  have hb : b = 0x0F ∨ b = 0xC4 ∨ b = 0xC5 := by simpa [StartsForm] using h
  rcases hb with rfl | rfl | rfl <;> exact ⟨rfl, by decide⟩

theorem scanPrefixes_startsForm {c : Ctx} {r : List Byte} (h : StartsForm r) (p : Prefixes) :
    scanPrefixes c p r = (p, r) ∧ takeRex c r = (none, r) := by
  cases r with
  | nil => exact ⟨rfl, rfl⟩
  | cons b r =>
    obtain ⟨hn, hx⟩ := note_of_startsForm (c := c) (p := p) h
    exact ⟨by simp [scanPrefixes, hn], by simp [takeRex, hx]⟩

theorem length_le_of_rexBytes {c : Ctx} {rex : List Byte} (h : RexBytes c rex) : rex.length ≤ 1 := by
  rcases h with rfl | ⟨b, rfl, -⟩ <;> simp

theorem long_of_mode {c : Ctx} (h : c.mode = .long64) : c.long = true := by simp [Ctx.long, h]

theorem note_of_rex {c : Ctx} {p : Prefixes} {b : Byte} (h : b.extractLsb' 4 4 = 4) : p.note c b = none := by
  have hmem : b ∉ prefixBytes := by revert b; decide
  simpa [hmem] using note_isSome c p b

theorem scanPrefixes_rex {c : Ctx} {rex r : List Byte} (hrex : RexBytes c rex) (hr : StartsForm r) (p : Prefixes) :
    scanPrefixes c p (rex ++ r) = (p, rex ++ r) ∧ takeRex c (rex ++ r) = (rexExt rex, r) := by
  rcases hrex with rfl | ⟨b, rfl, hmode, hb⟩
  · exact scanPrefixes_startsForm hr p
  · have hx : rexOf b = some ⟨b.getLsbD 2, b.getLsbD 1, b.getLsbD 0⟩ := if_pos hb
    refine ⟨by simp [scanPrefixes, note_of_rex hb], ?_⟩
    simp [takeRex, long_of_mode hmode, rexExt, hx]

theorem rexExt_isSome {c : Ctx} {rex : List Byte} (h : RexBytes c rex) : (rexExt rex).isSome = decide (rex ≠ []) := by
  rcases h with rfl | ⟨b, rfl, -, hb⟩
  · rfl
  · have hx : rexOf b = some ⟨b.getLsbD 2, b.getLsbD 1, b.getLsbD 0⟩ := if_pos hb
    simp [rexExt, hx]

/-- Outside 64-bit mode there is no REX byte to extend a register number. -/
theorem rexExt_short {c : Ctx} {rex : List Byte} (h : RexBytes c rex) (hc : c.long = false) :
    (rexExt rex).getD Ext.none = Ext.none := by
  rcases h with rfl | ⟨b, rfl, hmode, -⟩
  · rfl
  · simp [long_of_mode hmode] at hc

/-! ### Steps 1 and 2 of R77 -/

theorem decodeAll_append {c : Ctx} {ps rex r : List Byte} (hps : AllPrefixes c ps) (hrex : RexBytes c rex)
    (hr : StartsForm r) :
    decodeAll c (ps ++ rex ++ r) =
      decodeOpcode c (ps.length + rex.length + r.length) (prefixesOf c ps) (rexExt rex) r := by
  obtain ⟨hscan, htake⟩ := scanPrefixes_rex hrex hr (prefixesOf c ps)
  have hall : scanPrefixes c Prefixes.empty (ps ++ (rex ++ r)) = (prefixesOf c ps, rex ++ r) :=
    (scanPrefixes_append hps _ _).trans hscan
  simp only [decodeAll, List.append_assoc, hall, htake, List.length_append, Nat.add_assoc]

theorem decode_append {c : Ctx} {u : List Byte} (hu : u.length ≤ 15) (r : List Byte) :
    decode c (u ++ r) = decodeAll c (u ++ r.take (15 - u.length)) := by
  rw [decode, maxInstrLen, List.take_append, List.take_of_length_le hu]

/-- Fifteen bytes that are all legacy prefixes are longer than an instruction can be (R79; log 12). -/
theorem decode_allPrefixes {c : Ctx} {bytes : List Byte} (hlen : 15 ≤ bytes.length)
    (hps : AllPrefixes c (bytes.take 15)) : decode c bytes = .gp := by
  have hall := decodeAll_append (rex := []) (r := []) hps (.inl rfl) (by simp [StartsForm])
  rw [List.append_nil, List.append_nil] at hall
  rw [decode, maxInstrLen, hall]
  simp [decodeOpcode, outOfBytes, maxInstrLen, hlen]

theorem takeRex_split (c : Ctx) (r : List Byte) :
    ∃ rex, r = rex ++ (takeRex c r).2 ∧ RexBytes c rex ∧ (takeRex c r).1 = rexExt rex := by
  cases r with
  | nil => exact ⟨[], rfl, .inl rfl, rfl⟩
  | cons b r =>
    cases hc : c.long with
    | false => exact ⟨[], by simp [takeRex, hc], .inl rfl, by simp [takeRex, hc, rexExt]⟩
    | true =>
      by_cases hb : b.extractLsb' 4 4 = 4
      · have hx : rexOf b = some ⟨b.getLsbD 2, b.getLsbD 1, b.getLsbD 0⟩ := if_pos hb
        exact ⟨[b], by simp [takeRex, hc, hx], .inr ⟨b, rfl, of_decide_eq_true hc, hb⟩,
          by simp [takeRex, hc, hx, rexExt]⟩
      · have hx : rexOf b = none := if_neg hb
        exact ⟨[], by simp [takeRex, hc, hx], .inl rfl, by simp [takeRex, hc, hx, rexExt]⟩

/-- What the decoder finds before the opcode in any byte string. -/
theorem decodeAll_split (c : Ctx) (bytes : List Byte) :
    ∃ ps rex r, bytes = ps ++ rex ++ r ∧ AllPrefixes c ps ∧ RexBytes c rex ∧
      decodeAll c bytes = decodeOpcode c bytes.length (prefixesOf c ps) (rexExt rex) r := by
  obtain ⟨ps, hps, hbytes, hscan⟩ := scanPrefixes_split c Prefixes.empty bytes
  have hp : (scanPrefixes c Prefixes.empty bytes).1 = prefixesOf c ps := hscan.symm
  obtain ⟨rex, hrest, hrex, hext⟩ := takeRex_split c (scanPrefixes c Prefixes.empty bytes).2
  refine ⟨ps, rex, (takeRex c (scanPrefixes c Prefixes.empty bytes).2).2, ?_, hps, hrex, ?_⟩
  · rw [List.append_assoc, ← hrest]
    exact hbytes
  · simp only [decodeAll, hp, hext]

end Sys2Proof

/-! ## Steps 3 to 5 of R77 (spec/30_encoding.md)

`FormRead` says once what the decoder must find after the prefixes to answer a form, whatever its length. Answering
the form, being well formed and encodable, and being too long when the bytes are cut short all follow from it. -/

namespace Sys2Proof

/-! ### Instructions from their parts -/

/-- The instruction of a class and an element pair; there is no MMX form for quadwords (R61). -/
def instrOf (e : Enc) (k : Elem) : Shape → Option Instr
  | .mmx d src => mkMm k e d src
  | .sse d src => some (mkXmm k e d src)
  | .vex l d a src => some (mkVex l k e d a src)

theorem instrOf_parts (i : Instr) : instrOf i.enc i.elem i.shape = some i := by
  cases i <;> rfl

/-- An instruction is its encoding facts, its element pair and its class with operands. -/
theorem instr_eq_of_parts {i j : Instr} (he : i.enc = j.enc) (hk : i.elem = j.elem) (hs : i.shape = j.shape) :
    i = j := by
  have h := instrOf_parts i
  rw [he, hk, hs, instrOf_parts] at h
  exact (Option.some.inj h).symm

theorem mkMm_parts {k : Elem} {e : Enc} {d : Fin 8} {src : RegMem 8} {i : Instr} (h : mkMm k e d src = some i) :
    i.enc = e ∧ i.elem = k ∧ i.shape = .mmx d src ∧ k ≠ .qdq := by
  cases k <;> cases h <;> simp [Instr.enc, Instr.elem, Instr.shape]

theorem mkMm_of_ne_qdq {k : Elem} (hk : k ≠ .qdq) (e : Enc) (d : Fin 8) (src : RegMem 8) :
    ∃ i, mkMm k e d src = some i := by
  cases k with
  | qdq => exact absurd rfl hk
  | _ => exact ⟨_, rfl⟩

@[simp] theorem mkXmm_parts (k : Elem) (e : Enc) (d : Fin 16) (src : RegMem 16) :
    (mkXmm k e d src).enc = e ∧ (mkXmm k e d src).elem = k ∧ (mkXmm k e d src).shape = .sse d src := by
  cases k <;> exact ⟨rfl, rfl, rfl⟩

@[simp] theorem mkVex_parts (l : Bool) (k : Elem) (e : Enc) (d a : Fin 16) (src : RegMem 16) :
    (mkVex l k e d a src).enc = e ∧ (mkVex l k e d a src).elem = k ∧
      (mkVex l k e d a src).shape = .vex l d a src := by
  cases l <;> cases k <;> exact ⟨rfl, rfl, rfl⟩

/-! ### The VEX fields (R71, R72, R74) -/

/-- The bytes that follow `C5` or `C4` and the fields they stand for. -/
inductive VexBytes (c : Ctx) : Byte → List Byte → Vex → Prop where
  | two (p : Byte) : VexBytes c 0xC5 [p] ((vexOf2 p).inMode c)
  | three (p1 p2 : Byte) : VexBytes c 0xC4 [p1, p2] ((vexOf3 p1 p2).inMode c)

theorem VexBytes.byte {c : Ctx} {b : Byte} {pl : List Byte} {v : Vex} (h : VexBytes c b pl v) :
    b = 0xC4 ∨ b = 0xC5 := by
  cases h with
  | two => exact .inr rfl
  | three => exact .inl rfl

theorem VexBytes.takeVex {c : Ctx} {b : Byte} {pl : List Byte} {v : Vex} (h : VexBytes c b pl v) (r : List Byte) :
    takeVex c (b = 0xC4) (pl ++ r) = some (v, r) := by
  cases h <;> rfl

theorem VexBytes.takeVex_short {c : Ctx} {b : Byte} {pl : List Byte} {v : Vex} (h : VexBytes c b pl v) {k : Nat}
    (hk : k < pl.length) : Sys2Proof.takeVex c (b = 0xC4) (pl.take k) = none := by
  cases h with
  | two p => match k, hk with | 0, _ => rfl
  | three p1 p2 => match k, hk with | 0, _ => rfl | 1, _ => rfl

theorem vexBytes_of_takeVex {c : Ctx} {b : Byte} {r r' : List Byte} {v : Vex} (hb : b = 0xC4 ∨ b = 0xC5)
    (h : takeVex c (b = 0xC4) r = some (v, r')) : ∃ pl, r = pl ++ r' ∧ VexBytes c b pl v := by
  rcases hb with rfl | rfl
  · match r, h with
    | p1 :: p2 :: r2, h => cases h; exact ⟨[p1, p2], rfl, .three p1 p2⟩
  · match r, h with
    | p :: r1, h => cases h; exact ⟨[p], rfl, .two p⟩

/-! ### What the decoder reads as a form -/

/-- The bytes of a form after its legacy prefixes and REX, as the decoder reads them: its element pair and class with
operands, and the bytes that follow it. -/
inductive FormRead (c : Ctx) (p : Prefixes) (rex : Option Ext) :
    List Byte → Elem → Shape → List Byte → Prop where
  | mmx {op : Byte} {k : Elem} {r rest : List Byte} {q : ModRM} (hop : elemOf op = some k)
      (hF2 : p.hasF2 = false) (hF3 : p.hasF3 = false) (h66 : p.has66 = false) (hk : k ≠ .qdq)
      (hq : takeModRM c (c.addrSize p.has67) (rex.getD Ext.none) p.seg r = some (q, rest)) :
      FormRead c p rex (0x0F :: op :: r) k (.mmx q.reg.toFin q.mmSrc) rest
  | sse {op : Byte} {k : Elem} {r rest : List Byte} {q : ModRM} (hop : elemOf op = some k)
      (hF2 : p.hasF2 = false) (hF3 : p.hasF3 = false) (h66 : p.has66 = true)
      (hq : takeModRM c (c.addrSize p.has67) (rex.getD Ext.none) p.seg r = some (q, rest)) :
      FormRead c p rex (0x0F :: op :: r) k
        (.sse (regNum (rex.getD Ext.none).r q.reg) (q.vecSrc (rex.getD Ext.none))) rest
  | vex {b b1 op : Byte} {k : Elem} {pl r rest : List Byte} {v : Vex} {q : ModRM} (hv : VexBytes c b (b1 :: pl) v)
      (hvex : isVex c b1 = true) (hmap : v.map = 1#5) (hpp : v.pp = 1#2) (hop : elemOf op = some k)
      (hq : takeModRM c (c.addrSize p.has67) v.ext p.seg r = some (q, rest)) :
      FormRead c p rex (b :: ((b1 :: pl) ++ op :: r)) k
        (.vex v.l (regNum v.ext.r q.reg) v.vvvv.toFin (q.vecSrc v.ext)) rest

theorem FormRead.startsForm {c : Ctx} {p : Prefixes} {rex : Option Ext} {r rest : List Byte} {k : Elem} {sh : Shape}
    (h : FormRead c p rex r k sh rest) : StartsForm r := by
  cases h with
  | mmx | sse => exact startsForm_cons (.inl rfl) _
  | vex hv => exact startsForm_cons (.inr hv.byte) _

/-! ### Steps 3 to 5, case by case -/

theorem decodeOpcode_vex {b : Byte} (hb : b = 0xC4 ∨ b = 0xC5) (c : Ctx) (n : Nat) (p : Prefixes) (rex : Option Ext)
    (b1 : Byte) (r : List Byte) :
    decodeOpcode c n p rex (b :: b1 :: r) =
      if isVex c b1 then decodeVex c n p rex (b = 0xC4) (b1 :: r) else .notInGroup := by
  rcases hb with rfl | rfl <;> rfl

theorem decodeOpcode_vex_nil {b : Byte} (hb : b = 0xC4 ∨ b = 0xC5) (c : Ctx) (n : Nat) (p : Prefixes)
    (rex : Option Ext) : decodeOpcode c n p rex [b] = outOfBytes n := by
  rcases hb with rfl | rfl <;> rfl

section
variable {c : Ctx} {p : Prefixes} {rex : Option Ext} {op : Byte} {k : Elem} {r rest : List Byte} {q : ModRM}

theorem decodeLegacy_mmx (n : Nat) (hop : elemOf op = some k) (hF2 : p.hasF2 = false) (hF3 : p.hasF3 = false)
    (h66 : p.has66 = false) (hk : k ≠ .qdq)
    (hq : takeModRM c (c.addrSize p.has67) (rex.getD Ext.none) p.seg r = some (q, rest)) {i : Instr}
    (hi : mkMm k ⟨n - rest.length, p.hasF0⟩ q.reg.toFin q.mmSrc = some i) :
    decodeLegacy c n p rex (op :: r) = .instr i := by
  simp [decodeLegacy, hop, hF2, hF3, h66, hk, hq, hi]

theorem decodeLegacy_sse (n : Nat) (hop : elemOf op = some k) (hF2 : p.hasF2 = false) (hF3 : p.hasF3 = false)
    (h66 : p.has66 = true)
    (hq : takeModRM c (c.addrSize p.has67) (rex.getD Ext.none) p.seg r = some (q, rest)) :
    decodeLegacy c n p rex (op :: r) =
      .instr (mkXmm k ⟨n - rest.length, p.hasF0⟩ (regNum (rex.getD Ext.none).r q.reg)
        (q.vecSrc (rex.getD Ext.none))) := by
  simp [decodeLegacy, hop, hF2, hF3, h66, hq]

theorem decodeLegacy_outOfBytes (n : Nat) (hop : elemOf op = some k) (hF2 : p.hasF2 = false) (hF3 : p.hasF3 = false)
    (hk : p.has66 = true ∨ k ≠ .qdq)
    (hq : takeModRM c (c.addrSize p.has67) (rex.getD Ext.none) p.seg r = none) :
    decodeLegacy c n p rex (op :: r) = outOfBytes n := by
  rcases hk with h | h <;> simp [decodeLegacy, hop, hF2, hF3, h, hq]

variable {b : Byte} {pl : List Byte} {v : Vex}

theorem decodeVexBody_instr (n : Nat) (hv : VexBytes c b pl v) (hmap : v.map = 1#5) (hpp : v.pp = 1#2)
    (hop : elemOf op = some k) (hq : takeModRM c (c.addrSize p.has67) v.ext p.seg r = some (q, rest)) :
    decodeVexBody c n p (b = 0xC4) (pl ++ op :: r) =
      .instr (mkVex v.l k ⟨n - rest.length, p.hasF0⟩ (regNum v.ext.r q.reg) v.vvvv.toFin (q.vecSrc v.ext)) := by
  rw [decodeVexBody, hv.takeVex]
  simp [hmap, hpp, hop, hq]

theorem decodeVexBody_outOfBytes (n : Nat) (hv : VexBytes c b pl v) (hmap : v.map = 1#5) (hpp : v.pp = 1#2)
    (hop : elemOf op = some k) (hq : takeModRM c (c.addrSize p.has67) v.ext p.seg r = none) :
    decodeVexBody c n p (b = 0xC4) (pl ++ op :: r) = outOfBytes n := by
  rw [decodeVexBody, hv.takeVex]
  simp [hmap, hpp, hop, hq]

/-- A VEX form cut before the end of its opcode. -/
theorem decodeVexBody_cut (n : Nat) (hv : VexBytes c b pl v) (hmap : v.map = 1#5) (hpp : v.pp = 1#2) {m : Nat}
    (hm : m ≤ pl.length) : decodeVexBody c n p (b = 0xC4) (pl.take m) = outOfBytes n := by
  rcases Nat.lt_or_eq_of_le hm with hlt | rfl
  · rw [decodeVexBody, hv.takeVex_short hlt]
  · have hnil := hv.takeVex []
    rw [List.append_nil] at hnil
    rw [List.take_length, decodeVexBody, hnil]
    simp [hmap, hpp]

end

theorem vex_ext_short {c : Ctx} {b : Byte} {pl : List Byte} {v : Vex} (h : VexBytes c b pl v)
    (hc : c.long = false) : v.ext = Ext.none := by
  cases h <;> simp [Vex.inMode, hc]

/-! ### What follows from a form read -/

/-- Whether a class of forms is VEX-encoded. -/
def Shape.isVexShape : Shape → Bool
  | .mmx _ _ => false
  | .sse _ _ => false
  | .vex _ _ _ _ => true

/-- A form read whose VEX encoding is not barred is the decoder's answer. -/
theorem FormRead.decodeOpcode {c : Ctx} {p : Prefixes} {rex : Option Ext} {r rest : List Byte} {k : Elem}
    {sh : Shape} (h : FormRead c p rex r k sh rest) (n : Nat)
    (hbar : sh.isVexShape = true → vexBarred c p rex = false) :
    ∃ i, Sys2Proof.decodeOpcode c n p rex r = .instr i ∧ i.enc = ⟨n - rest.length, p.hasF0⟩ ∧ i.elem = k ∧
      i.shape = sh := by
  cases h with
  | mmx hop hF2 hF3 h66 hk hq =>
    obtain ⟨i, hi⟩ := mkMm_of_ne_qdq hk ⟨n - rest.length, p.hasF0⟩ _ _
    obtain ⟨henc, helem, hshape, -⟩ := mkMm_parts hi
    exact ⟨i, decodeLegacy_mmx n hop hF2 hF3 h66 hk hq hi, henc, helem, hshape⟩
  | sse hop hF2 hF3 h66 hq => exact ⟨_, decodeLegacy_sse n hop hF2 hF3 h66 hq, mkXmm_parts _ _ _ _⟩
  | vex hv hvex hmap hpp hop hq =>
    refine ⟨_, ?_, mkVex_parts _ _ _ _ _ _⟩
    rw [List.cons_append, decodeOpcode_vex hv.byte, if_pos hvex, decodeVex, hbar rfl, if_neg Bool.false_ne_true]
    exact decodeVexBody_instr n hv hmap hpp hop hq

/-- A form read whose bytes are cut short after fifteen is longer than an instruction can be, whether or not its VEX
encoding is barred (R79, R172). -/
theorem FormRead.decodeOpcode_take {c : Ctx} {p : Prefixes} {rex : Option Ext} {r rest : List Byte} {k : Elem}
    {sh : Shape} (h : FormRead c p rex r k sh rest) (hrex : c.long = false → rex.getD Ext.none = Ext.none) {m : Nat}
    (hm : m + rest.length < r.length) : Sys2Proof.decodeOpcode c 15 p rex (r.take m) = .gp := by
  match m with
  | 0 => rfl
  | m + 1 =>
  cases h with
  | mmx hop hF2 hF3 h66 hk hq =>
    match m with
    | 0 => rfl
    | m + 1 =>
      exact decodeLegacy_outOfBytes 15 hop hF2 hF3 (.inr hk)
        (takeModRM_take hrex hq (by simp only [List.length_cons] at hm; omega))
  | sse hop hF2 hF3 h66 hq =>
    match m with
    | 0 => rfl
    | m + 1 =>
      exact decodeLegacy_outOfBytes 15 hop hF2 hF3 (.inl h66)
        (takeModRM_take hrex hq (by simp only [List.length_cons] at hm; omega))
  | @vex b b1 op k pl r rest v q hv hvex hmap hpp hop hq =>
    match m with
    | 0 => exact decodeOpcode_vex_nil hv.byte c 15 p rex
    | m + 1 =>
      have hbody : decodeVexBody c 15 p (b = 0xC4) (((b1 :: pl) ++ op :: r).take (m + 1)) = .gp := by
        rw [List.take_append]
        by_cases hcut : m + 1 ≤ (b1 :: pl).length
        · rw [Nat.sub_eq_zero_of_le hcut, List.take_zero, List.append_nil]
          exact decodeVexBody_cut 15 hv hmap hpp hcut
        · obtain ⟨j, hj⟩ : ∃ j, m + 1 - (b1 :: pl).length = j + 1 := ⟨m - (b1 :: pl).length, by omega⟩
          rw [hj, List.take_of_length_le (by omega), List.take_succ_cons]
          refine decodeVexBody_outOfBytes 15 hv hmap hpp hop (takeModRM_take (vex_ext_short hv) hq ?_)
          simp only [List.length_cons, List.length_append] at hm hj
          omega
      rw [List.take_succ_cons, List.cons_append, List.take_succ_cons, decodeOpcode_vex hv.byte, if_pos hvex, decodeVex]
      rw [List.cons_append, List.take_succ_cons] at hbody
      rw [hbody]
      simp

theorem outOfBytes_ne_instr (n : Nat) (i : Instr) : outOfBytes n ≠ .instr i := by
  unfold outOfBytes
  split <;> simp

theorem formRead_of_decodeLegacy {c : Ctx} {n : Nat} {p : Prefixes} {rex : Option Ext} {r : List Byte} {i : Instr}
    (h : decodeLegacy c n p rex r = .instr i) :
    ∃ rest, FormRead c p rex (0x0F :: r) i.elem i.shape rest ∧ i.enc = ⟨n - rest.length, p.hasF0⟩ ∧
      i.shape.isVexShape = false := by
  match r with
  | [] => exact absurd h (outOfBytes_ne_instr n i)
  | op :: r =>
    simp only [decodeLegacy] at h
    split at h
    · cases h
    · next k hop =>
      split at h
      · cases h
      next hrep =>
      obtain ⟨hF2, hF3⟩ : p.hasF2 = false ∧ p.hasF3 = false := by simpa using hrep
      split at h
      · cases h
      next hqdq =>
      split at h
      · exact absurd h (outOfBytes_ne_instr n i)
      next q rest hq =>
      split at h
      · next h66 =>
        cases h
        obtain ⟨henc, helem, hshape⟩ := mkXmm_parts k ⟨n - rest.length, p.hasF0⟩
          (regNum (rex.getD Ext.none).r q.reg) (q.vecSrc (rex.getD Ext.none))
        rw [henc, helem, hshape]
        exact ⟨rest, .sse hop hF2 hF3 h66 hq, rfl, rfl⟩
      · next h66 =>
        split at h
        · next j hj =>
          cases h
          obtain ⟨henc, helem, hshape, hk⟩ := mkMm_parts hj
          rw [henc, helem, hshape]
          exact ⟨rest, .mmx hop hF2 hF3 (by simpa using h66) hk hq, rfl, rfl⟩
        · cases h

theorem formRead_of_decodeVexBody {c : Ctx} {n : Nat} {p : Prefixes} {b b1 : Byte} {r : List Byte} {i : Instr}
    (rex : Option Ext) (hb : b = 0xC4 ∨ b = 0xC5) (hvex : isVex c b1 = true)
    (h : decodeVexBody c n p (b = 0xC4) (b1 :: r) = .instr i) :
    ∃ rest, FormRead c p rex (b :: b1 :: r) i.elem i.shape rest ∧ i.enc = ⟨n - rest.length, p.hasF0⟩ := by
  unfold decodeVexBody at h
  split at h
  · exact absurd h (outOfBytes_ne_instr n i)
  next v r1 hv =>
  split at h
  · cases h
  next hfields =>
  obtain ⟨hmap, hpp⟩ : v.map = 1#5 ∧ v.pp = 1#2 := by simpa using hfields
  split at h
  · exact absurd h (outOfBytes_ne_instr n i)
  next op r2 =>
  split at h
  · cases h
  next k hop =>
  split at h
  · exact absurd h (outOfBytes_ne_instr n i)
  next q rest hq =>
  cases h
  obtain ⟨pl, hr, hpl⟩ := vexBytes_of_takeVex hb hv
  obtain ⟨henc, helem, hshape⟩ := mkVex_parts v.l k ⟨n - rest.length, p.hasF0⟩ (regNum v.ext.r q.reg)
    v.vvvv.toFin (q.vecSrc v.ext)
  rw [henc, helem, hshape, hr]
  refine ⟨rest, ?_, rfl⟩
  match pl, hr, hpl with
  | b0 :: pl, hr, hpl =>
    have hhead : b1 = b0 := (List.cons.inj hr).1
    exact .vex hpl (hhead ▸ hvex) hmap hpp hop hq

/-- Every form the decoder answers is a form read. -/
theorem formRead_of_decodeOpcode {c : Ctx} {n : Nat} {p : Prefixes} {rex : Option Ext} {r : List Byte} {i : Instr}
    (h : decodeOpcode c n p rex r = .instr i) :
    ∃ rest, FormRead c p rex r i.elem i.shape rest ∧ i.enc = ⟨n - rest.length, p.hasF0⟩ ∧
      (i.shape.isVexShape = true → vexBarred c p rex = false) := by
  match r with
  | [] => exact absurd h (outOfBytes_ne_instr n i)
  | b :: r =>
    by_cases hb : b = 0xC4 ∨ b = 0xC5
    · match r with
      | [] => exact absurd (decodeOpcode_vex_nil hb c n p rex ▸ h) (outOfBytes_ne_instr n i)
      | b1 :: r =>
        rw [decodeOpcode_vex hb] at h
        split at h
        · next hvex =>
          unfold decodeVex at h
          split at h
          · split at h <;> cases h
          · next hbar =>
            obtain ⟨rest, hread, henc⟩ := formRead_of_decodeVexBody rex hb hvex h
            exact ⟨rest, hread, henc, fun _ => by simpa using hbar⟩
        · cases h
    · obtain ⟨h4, h5⟩ := not_or.1 hb
      by_cases h0F : b = 0x0F
      · subst h0F
        obtain ⟨rest, hread, henc, hsh⟩ := formRead_of_decodeLegacy (rex := rex) h
        exact ⟨rest, hread, henc, fun hvex => absurd (hsh.symm.trans hvex) (by decide)⟩
      · simp only [decodeOpcode] at h
        simp_all

end Sys2Proof

/-! ## The parts of an encoding (spec/30_encoding.md R61 to R75) -/

namespace Sys2Proof

/-! ### The operand fields of a class -/

/-- The `r/m` operand as encoded. -/
def Shape.field : Shape → Sum (BitVec 3) MemOp
  | .mmx _ src => src.mmField
  | .sse _ src => src.vecField
  | .vex _ _ _ src => src.vecField

/-- The extension bits of the encoding. -/
def Shape.ext : Shape → Ext
  | .mmx _ src => src.mmExt
  | .sse d src => src.vecExt d
  | .vex _ d _ src => src.vecExt d

/-- The class whose encoding has a `66` of its own. -/
def Shape.isSse : Shape → Bool
  | .mmx _ _ => false
  | .sse _ _ => true
  | .vex _ _ _ _ => false

/-! ### The three parts of the shortest encoding: legacy prefixes without overrides, REX, and the form -/

def Shape.fixedPrefixes (c : Ctx) (lock : Bool) (sh : Shape) : List Byte :=
  addrPrefix c sh.field ++ (if lock then [0xF0] else []) ++ (if sh.isSse then [0x66] else [])

def Shape.rexPart : Shape → List Byte
  | .mmx _ src => rexBytes src.mmExt
  | .sse d src => rexBytes (src.vecExt d)
  | .vex _ _ _ _ => []

def Shape.formPart (c : Ctx) (k : Elem) : Shape → List Byte
  | .mmx d src => 0x0F :: k.byte :: modRMBytes c (BitVec.ofFin d) src.mmField
  | .sse d src => 0x0F :: k.byte :: modRMBytes c (lowBits d) src.vecField
  | .vex l d a src => vexBytes (src.vecExt d) a l ++ k.byte :: modRMBytes c (lowBits d) src.vecField

theorem core_eq_parts (c : Ctx) (lock : Bool) (k : Elem) (sh : Shape) :
    sh.core c lock k = sh.fixedPrefixes c lock ++ sh.rexPart ++ sh.formPart c k := by
  cases sh <;> simp [Shape.core, Shape.fixedPrefixes, Shape.rexPart, Shape.formPart, Shape.field, Shape.isSse]

/-- The legacy prefixes of an encoding: the overrides that fill it up, then those it needs. -/
def Instr.prefixPart (c : Ctx) (i : Instr) : List Byte :=
  List.replicate (i.enc.len - (i.core c).length) i.shape.padSeg.byte ++ i.shape.fixedPrefixes c i.enc.lock

theorem encode_eq_parts (c : Ctx) (i : Instr) :
    i.encode c = i.prefixPart c ++ i.shape.rexPart ++ i.shape.formPart c i.elem := by
  simp [Instr.encode, Instr.prefixPart, Instr.core, core_eq_parts]

/-! ### The legacy prefixes of an encoding -/

theorem mem_addrPrefix {c : Ctx} {f : Sum (BitVec 3) MemOp} {b : Byte} :
    b ∈ addrPrefix c f ↔ b = 0x67 ∧ ∃ m, f = .inr m ∧ m.asize ≠ c.defaultAddr := by
  cases f with
  | inl n => simp [addrPrefix]
  | inr m => by_cases h : m.asize = c.defaultAddr <;> simp [addrPrefix, h]

theorem mem_fixedPrefixes {c : Ctx} {lock : Bool} {sh : Shape} {b : Byte} :
    b ∈ sh.fixedPrefixes c lock ↔
      (b = 0x67 ∧ ∃ m, sh.field = .inr m ∧ m.asize ≠ c.defaultAddr) ∨ (b = 0xF0 ∧ lock = true) ∨
        (b = 0x66 ∧ sh.isSse = true) := by
  simp only [Shape.fixedPrefixes, List.mem_append, mem_addrPrefix]
  cases lock <;> cases sh.isSse <;> simp [or_assoc]

theorem mem_prefixPart {c : Ctx} {i : Instr} {b : Byte} (hb : ∀ g : Seg, b ≠ g.byte) :
    b ∈ i.prefixPart c ↔ b ∈ i.shape.fixedPrefixes c i.enc.lock := by
  simp [Instr.prefixPart, List.mem_replicate, hb]

theorem allPrefixes_prefixPart (c : Ctx) (i : Instr) : AllPrefixes c (i.prefixPart c) := by
  intro b hb
  rw [note_isSome, decide_eq_true_eq]
  rcases List.mem_append.1 hb with h | h
  · rw [List.eq_of_mem_replicate h]
    exact seg_byte_mem _
  · rcases mem_fixedPrefixes.1 h with ⟨rfl, -⟩ | ⟨rfl, -⟩ | ⟨rfl, -⟩ <;> decide

theorem ne_seg_byte {b : Byte} (hb : b ∈ [0x66, 0x67, 0xF0, 0xF2, 0xF3]) (g : Seg) : b ≠ g.byte := by
  revert b
  cases g <;> decide

theorem prefixPart_flags (c : Ctx) (i : Instr) :
    ((0x66 : Byte) ∈ i.prefixPart c ↔ i.shape.isSse = true) ∧
    ((0x67 : Byte) ∈ i.prefixPart c ↔ ∃ m, i.shape.field = .inr m ∧ m.asize ≠ c.defaultAddr) ∧
    ((0xF0 : Byte) ∈ i.prefixPart c ↔ i.enc.lock = true) ∧
    (0xF2 : Byte) ∉ i.prefixPart c ∧ (0xF3 : Byte) ∉ i.prefixPart c := by
  refine ⟨?_, ?_, ?_, ?_, ?_⟩ <;> rw [mem_prefixPart (ne_seg_byte (by decide)), mem_fixedPrefixes] <;> simp

theorem scanPrefixes_seg_replicate (c : Ctx) (g : Seg) (n : Nat) (p : Prefixes) (hp : p.seg = none ∨ p.seg = some g) :
    (scanPrefixes c p (List.replicate n g.byte)).1.seg = if n = 0 then p.seg else some g := by
  induction n generalizing p with
  | zero => rfl
  | succ n ih =>
    obtain ⟨p', hnote, hseg⟩ : ∃ p', p.note c g.byte = some p' ∧ p'.seg = some g := by
      cases g with
      | fs | gs => exact ⟨_, rfl, rfl⟩
      | cs | ss | ds | es => exact ⟨_, rfl, by rcases hp with h | h <;> simp [Prefixes.noteSeg, h]⟩
    rw [List.replicate_succ, scanPrefixes_cons _ _ _ _ _ hnote, ih p' (.inr hseg)]
    simp [hseg]

theorem scanPrefixes_seg_of_noSeg {c : Ctx} {ps : List Byte} (hps : ∀ b ∈ ps, b = 0x67 ∨ b = 0xF0 ∨ b = 0x66)
    (p : Prefixes) : (scanPrefixes c p ps).1.seg = p.seg := by
  induction ps generalizing p with
  | nil => rfl
  | cons b ps ih =>
    obtain ⟨hb, hrest⟩ := List.forall_mem_cons.1 hps
    rcases hb with hb | hb | hb <;> rw [hb] <;> exact ih hrest _

theorem prefixPart_seg (c : Ctx) (i : Instr) :
    (prefixesOf c (i.prefixPart c)).seg =
      if i.enc.len - (i.core c).length = 0 then none else some i.shape.padSeg := by
  have hpad : AllPrefixes c (List.replicate (i.enc.len - (i.core c).length) i.shape.padSeg.byte) := fun b hb =>
    allPrefixes_prefixPart c i b (List.mem_append_left _ hb)
  rw [prefixesOf, Instr.prefixPart, scanPrefixes_append hpad, scanPrefixes_seg_of_noSeg,
    scanPrefixes_seg_replicate _ _ _ _ (.inl rfl)]
  · rfl
  · intro b hb
    rcases mem_fixedPrefixes.1 hb with ⟨rfl, -⟩ | ⟨rfl, -⟩ | ⟨rfl, -⟩ <;> simp

theorem padSeg_of_field {sh : Shape} {m : MemOp} (hf : sh.field = .inr m) :
    sh.padSeg = m.seg ∧ sh.needsOverride = decide (m.seg ≠ defaultSeg m.base) := by
  cases sh with
  | mmx d src | sse d src | vex l d a src =>
    cases src <;> simp [Shape.field, RegMem.mmField, RegMem.vecField] at hf
    subst hf
    exact ⟨rfl, rfl⟩

/-- The decoder gives the operand its own segment back (R70). -/
theorem fieldSeen_prefixPart {c : Ctx} {i : Instr} (hlen : i.lenFits c = true) :
    fieldSeen (prefixesOf c (i.prefixPart c)).seg i.shape.field = i.shape.field := by
  cases hf : i.shape.field with
  | inl n => rfl
  | inr m =>
    obtain ⟨hpad, hover⟩ := padSeg_of_field hf
    have hfits : i.minLen c ≤ i.enc.len := of_decide_eq_true hlen
    have hseg : (prefixesOf c (i.prefixPart c)).seg.getD (defaultSeg m.base) = m.seg := by
      rw [prefixPart_seg, hpad]
      split
      · next hzero =>
        by_contra hne
        have hne' : m.seg ≠ defaultSeg m.base := fun h => hne h.symm
        simp only [Instr.minLen, hover, hne', ne_eq, not_false_eq_true, decide_true, if_true] at hfits
        omega
      · rfl
    simp only [fieldSeen, mkMem, hseg]

/-! ### REX and VEX bytes -/

theorem rexExt_rexBytes (e : Ext) : (rexExt (rexBytes e)).getD Ext.none = e := by
  obtain ⟨r, x, b⟩ := e
  revert r x b
  decide

theorem rexBytes_ok {c : Ctx} {e : Ext} (he : c.long = false → e = Ext.none) : RexBytes c (rexBytes e) := by
  by_cases h : e = Ext.none
  · exact .inl (if_pos h)
  · refine .inr ⟨_, if_neg h, ?_, ?_⟩
    · cases hc : c.long with
      | false => exact absurd (he hc) h
      | true => exact of_decide_eq_true hc
    · obtain ⟨r, x, b⟩ := e
      clear h he
      revert r x b
      decide

theorem vexOf2_payload (r l : Bool) (v : BitVec 4) :
    vexOf2 (BitVec.ofBool (!r) ++ v ++ BitVec.ofBool l ++ 1#2) = ⟨⟨r, false, false⟩, 1#5, ~~~ v, l, 1#2⟩ := by
  revert r l v; decide

theorem vexOf3_payload (r x b l : Bool) (v : BitVec 4) :
    vexOf3 (BitVec.ofBool (!r) ++ BitVec.ofBool (!x) ++ BitVec.ofBool (!b) ++ 1#5)
      (BitVec.ofBool false ++ v ++ BitVec.ofBool l ++ 1#2) = ⟨⟨r, x, b⟩, 1#5, ~~~ v, l, 1#2⟩ := by
  revert r x b l v; decide

theorem vex_inMode {c : Ctx} {e : Ext} {a : Fin 16} (he : c.long = false → e = Ext.none) (ha : regOk c a = true)
    (l : Bool) :
    (⟨e, 1#5, ~~~ ~~~ BitVec.ofFin a, l, 1#2⟩ : Vex).inMode c = ⟨e, 1#5, BitVec.ofFin a, l, 1#2⟩ := by
  rw [BitVec.not_not]
  cases hc : c.long with
  | true => simp [Vex.inMode, hc]
  | false =>
    have hlow : (BitVec.ofFin a : BitVec 4) &&& 7#4 = BitVec.ofFin a := by
      simp only [regOk, hc, Bool.false_or, decide_eq_true_eq] at ha
      clear he
      revert a
      decide
    simp [Vex.inMode, hc, he hc, hlow]

theorem vexBytes_read {c : Ctx} {e : Ext} {a : Fin 16} (he : c.long = false → e = Ext.none) (ha : regOk c a = true)
    (l : Bool) :
    ∃ b b1 pl, vexBytes e a l = b :: b1 :: pl ∧ isVex c b1 = true ∧
      VexBytes c b (b1 :: pl) ⟨e, 1#5, BitVec.ofFin a, l, 1#2⟩ := by
  have hmode := vex_inMode he ha l
  by_cases hxb : (e.x || e.b) = true
  · refine ⟨_, _, _, by rw [vexBytes, if_pos hxb], ?_, ?_⟩
    · cases hc : c.long with
      | true => simp [isVex, hc]
      | false => simp [he hc, Ext.none] at hxb
    · rw [← hmode, ← vexOf3_payload e.r e.x e.b l]
      exact .three _ _
  · refine ⟨_, _, _, by rw [vexBytes, if_neg hxb], ?_, ?_⟩
    · cases hc : c.long with
      | true => simp [isVex, hc]
      | false =>
        simp only [regOk, hc, Bool.false_or, decide_eq_true_eq] at ha
        simp only [isVex, hc, he hc, Ext.none, Bool.false_or]
        clear hmode he hxb
        revert a l
        decide
    · obtain ⟨hx, hb⟩ : e.x = false ∧ e.b = false := by simpa using hxb
      have he' : e = ⟨e.r, false, false⟩ := by cases e; simp_all
      have hpay := vexOf2_payload e.r l (~~~ BitVec.ofFin a)
      rw [← he'] at hpay
      rw [← hmode, ← hpay]
      exact .two _

/-! ### Well-formed operands -/

theorem regOk_of_wf {c : Ctx} {m : MemOp} (hw : m.wf c = true) :
    (∀ b, m.base = .gpr b → regOk c b = true) ∧ (∀ p, m.index = some p → regOk c p.1 = true) := by
  by_cases ha : m.asize = .a16
  · simp only [MemOp.wf, ha, Bool.and_eq_true] at hw
    obtain ⟨⟨-, hpair⟩, -⟩ := hw
    cases hb : m.base <;> cases hi : m.index <;> simp [hb, hi, pair16Ok] at hpair
    · simp
    · obtain ((rfl | rfl) | rfl) | rfl := hpair <;> simp [regOk]
    · obtain ⟨⟨rfl | rfl, hx⟩, -⟩ := hpair <;> rcases hx with hx | hx <;> simp [regOk, hx]
  · have hpair := pair32Ok_of_wf ha hw
    cases hb : m.base <;> cases hi : m.index <;> simp_all [pair32Ok]

/-- Outside 64-bit mode no operand needs an extension bit. -/
theorem memOp_ext_short {c : Ctx} {m : MemOp} (hw : m.wf c = true) (hc : c.long = false) (q : Bool) :
    m.ext q = ⟨q, false, false⟩ := by
  obtain ⟨hbase, hindex⟩ := regOk_of_wf hw
  cases hb : m.base with
  | gpr b =>
    have h := hiBit_of_regOk (hbase b hb) hc
    cases hi : m.index with
    | none => simp [MemOp.ext, hb, hi, h]
    | some p => simp [MemOp.ext, hb, hi, h, hiBit_of_regOk (hindex p hi) hc]
  | none | next =>
    cases hi : m.index with
    | none => simp [MemOp.ext, hb, hi]
    | some p => simp [MemOp.ext, hb, hi, hiBit_of_regOk (hindex p hi) hc]

theorem mmExt_short {c : Ctx} {src : RegMem 8} (hs : mmSrcOk c src = true) (hc : c.long = false) :
    src.mmExt = Ext.none := by
  cases src with
  | reg n => rfl
  | mem m => exact memOp_ext_short hs hc false

theorem vecExt_short {c : Ctx} {d : Fin 16} {src : RegMem 16} (hd : regOk c d = true) (hs : vecSrcOk c src = true)
    (hc : c.long = false) : src.vecExt d = Ext.none := by
  have hd' := hiBit_of_regOk hd hc
  cases src with
  | reg n => simp [RegMem.vecExt, hd', hiBit_of_regOk hs hc, Ext.none]
  | mem m => exact (memOp_ext_short hs hc (hiBit d)).trans (by rw [hd']; rfl)

theorem addrSize_of_wf {c : Ctx} {m : MemOp} (hw : m.wf c = true) :
    c.addrSize (m.asize ≠ c.defaultAddr) = m.asize := by
  have hok : (m.asize = .a16 → c.long = false) ∧ (m.asize = .a64 → c.long = true) := by
    cases ha : m.asize <;> simp_all [MemOp.wf]
  obtain ⟨mode, d⟩ := c
  generalize m.asize = a at hok
  clear hw
  cases mode <;> cases a <;> revert d <;> decide

end Sys2Proof

/-! ## The decoder reads every encoding (spec/30_encoding.md R60 to R79) -/

namespace Sys2Proof

theorem elemOf_byte (k : Elem) : elemOf k.byte = some k := by cases k <;> rfl

/-- The scan notes the address size that the operand has. -/
def addrNoted (c : Ctx) (p : Prefixes) (f : Sum (BitVec 3) MemOp) : Prop :=
  ∀ m, f = .inr m → p.has67 = decide (m.asize ≠ c.defaultAddr)

theorem fieldOk_of_wf {c : Ctx} {p : Prefixes} {e : Ext} {f : Sum (BitVec 3) MemOp} (hp : addrNoted c p f)
    (hw : ∀ m, f = .inr m → m.wf c = true ∧ e = m.ext e.r) : fieldOk c (c.addrSize p.has67) e f := by
  cases f with
  | inl n => trivial
  | inr m =>
    obtain ⟨hm, he⟩ := hw m rfl
    exact ⟨hm, by rw [hp m rfl, addrSize_of_wf hm], he⟩

theorem vecSrc_of_seen {src : RegMem 16} {d : Fin 16} {reg : BitVec 3} :
    (⟨reg, src.vecField⟩ : ModRM).vecSrc (src.vecExt d) = src := by
  cases src <;> simp [ModRM.vecSrc, RegMem.vecField, RegMem.vecExt]

theorem mmSrc_of_seen {src : RegMem 8} {reg : BitVec 3} : (⟨reg, src.mmField⟩ : ModRM).mmSrc = src := by
  cases src <;> rfl

theorem vecExt_r (d : Fin 16) (src : RegMem 16) : (src.vecExt d).r = hiBit d := by cases src <;> rfl

section
variable {c : Ctx} {p : Prefixes} {k : Elem}

theorem takeModRM_mm {src : RegMem 8} (hw : mmSrcOk c src = true) (hp : addrNoted c p src.mmField)
    (reg : BitVec 3) (rest : List Byte) :
    takeModRM c (c.addrSize p.has67) ((rexExt (rexBytes src.mmExt)).getD Ext.none) p.seg
      (modRMBytes c reg src.mmField ++ rest) = some (⟨reg, fieldSeen p.seg src.mmField⟩, rest) := by
  rw [rexExt_rexBytes]
  refine takeModRM_encode (fieldOk_of_wf hp fun m hm => ?_) p.seg reg rest
  cases src <;> cases hm
  exact ⟨hw, rfl⟩

theorem takeModRM_vec {src : RegMem 16} (hw : vecSrcOk c src = true) (hp : addrNoted c p src.vecField) (d : Fin 16)
    (reg : BitVec 3) (rest : List Byte) :
    takeModRM c (c.addrSize p.has67) (src.vecExt d) p.seg (modRMBytes c reg src.vecField ++ rest) =
      some (⟨reg, fieldSeen p.seg src.vecField⟩, rest) := by
  refine takeModRM_encode (fieldOk_of_wf hp fun m hm => ?_) p.seg reg rest
  cases src <;> cases hm
  exact ⟨hw, rfl⟩

/-- Behind prefixes that note its address size and, before a legacy form, no `F2` or `F3`, the form part of an encoding
is read as some form of the same element pair; it is the encoded one if the prefixes are those of its class and name
its segment. -/
theorem formRead_encode {i : Instr} (hw : i.wf c = true) (hp : addrNoted c p i.shape.field)
    (hrep : i.shape.isVexShape = true ∨ (p.hasF2 = false ∧ p.hasF3 = false))
    (h66 : i.shape.isSse = true → p.has66 = true) (rest : List Byte) :
    ∃ sh, FormRead c p (rexExt i.shape.rexPart) (i.shape.formPart c i.elem ++ rest) i.elem sh rest ∧
      (fieldSeen p.seg i.shape.field = i.shape.field → (i.shape.isVexShape = false → p.has66 = i.shape.isSse) →
        sh = i.shape) := by
  have hop := elemOf_byte i.elem
  have hqdq : ∀ d src, i.shape = .mmx d src → i.elem ≠ .qdq := by
    intro d src
    cases i <;> simp [Instr.shape, Instr.elem]
  have hshape : i.shape.wf c = true := by
    simp only [Instr.wf, Bool.and_eq_true] at hw
    exact hw.1.1.1
  cases hsh : i.shape with
  | mmx d src =>
    rw [hsh] at hp hrep hshape
    obtain ⟨hF2, hF3⟩ : p.hasF2 = false ∧ p.hasF3 = false := by simpa [Shape.isVexShape] using hrep
    have hq := takeModRM_mm hshape hp (BitVec.ofFin d) rest
    cases h : p.has66 with
    | false =>
      refine ⟨_, .mmx hop hF2 hF3 h (hqdq d src hsh) hq, fun hseen _ => ?_⟩
      rw [show fieldSeen p.seg src.mmField = src.mmField from hseen, mmSrc_of_seen]
    | true => exact ⟨_, .sse hop hF2 hF3 h hq, fun _ h' => absurd (h' rfl) (by simp [Shape.isSse])⟩
  | sse d src =>
    rw [hsh] at hp hrep hshape h66
    obtain ⟨hF2, hF3⟩ : p.hasF2 = false ∧ p.hasF3 = false := by simpa [Shape.isVexShape] using hrep
    obtain ⟨-, hsrc⟩ := (Bool.and_eq_true_iff.1 hshape : _ ∧ _)
    have hq := takeModRM_vec hsrc hp d (lowBits d) rest
    rw [← rexExt_rexBytes (src.vecExt d)] at hq
    refine ⟨_, .sse hop hF2 hF3 (h66 rfl) hq, fun hseen _ => ?_⟩
    rw [Shape.rexPart, rexExt_rexBytes, show fieldSeen p.seg src.vecField = src.vecField from hseen, vecSrc_of_seen,
      vecExt_r, regNum_hiBit_lowBits]
  | vex l d a src =>
    rw [hsh] at hp hshape
    simp only [Shape.wf, Bool.and_eq_true] at hshape
    obtain ⟨⟨⟨-, hd⟩, ha⟩, hsrc⟩ := hshape
    obtain ⟨b, b1, pl, hbytes, hvex, hv⟩ := vexBytes_read (e := src.vecExt d) (vecExt_short hd hsrc) ha l
    have hq := takeModRM_vec hsrc hp d (lowBits d) rest
    have hform : (Shape.vex l d a src).formPart c i.elem ++ rest =
        b :: ((b1 :: pl) ++ i.elem.byte :: (modRMBytes c (lowBits d) src.vecField ++ rest)) := by
      rw [Shape.formPart, hbytes, List.append_assoc]
      rfl
    rw [hform]
    refine ⟨_, .vex hv hvex rfl rfl hop hq, fun hseen _ => ?_⟩
    rw [show fieldSeen p.seg src.vecField = src.vecField from hseen, vecSrc_of_seen, vecExt_r, regNum_hiBit_lowBits]

theorem rexPart_ok {sh : Shape} (hw : sh.wf c = true) : RexBytes c sh.rexPart := by
  cases sh with
  | mmx d src => exact rexBytes_ok (mmExt_short hw)
  | sse d src =>
    obtain ⟨hd, hsrc⟩ := (Bool.and_eq_true_iff.1 hw : _ ∧ _)
    exact rexBytes_ok (vecExt_short hd hsrc)
  | vex l d a src => exact .inl rfl

end

/-! ### What a form read decides about the whole byte string -/

section
variable {c : Ctx} {ps rex r rest : List Byte} {k : Elem} {sh : Shape}

theorem decodeAll_formRead (hps : AllPrefixes c ps) (hrex : RexBytes c rex)
    (h : FormRead c (prefixesOf c ps) (rexExt rex) r k sh rest)
    (hbar : sh.isVexShape = true → vexBarred c (prefixesOf c ps) (rexExt rex) = false) :
    ∃ i, decodeAll c (ps ++ rex ++ r) = .instr i ∧
      i.enc = ⟨ps.length + rex.length + r.length - rest.length, (prefixesOf c ps).hasF0⟩ ∧ i.elem = k ∧
      i.shape = sh := by
  rw [decodeAll_append hps hrex h.startsForm]
  exact h.decodeOpcode _ hbar

/-- A form that ends behind the fifteenth byte is longer than an instruction can be (R79). -/
theorem decode_overlong (hps : AllPrefixes c ps) (hrex : RexBytes c rex)
    (h : FormRead c (prefixesOf c ps) (rexExt rex) r k sh rest)
    (hlen : 15 + rest.length < ps.length + rex.length + r.length) : decode c (ps ++ rex ++ r) = .gp := by
  by_cases hps15 : 15 ≤ ps.length
  · refine decode_allPrefixes (by simp only [List.length_append]; omega) fun b hb => hps b ?_
    rw [List.append_assoc, List.take_append_of_le_length hps15] at hb
    exact List.mem_of_mem_take hb
  · have hrex1 := length_le_of_rexBytes hrex
    have hhead : (ps ++ rex).length ≤ 15 := by simp only [List.length_append]; omega
    rw [decode_append hhead, decodeAll_append hps hrex (h.startsForm.take _)]
    simp only [List.length_append, List.length_take]
    rw [show ps.length + rex.length + min (15 - (ps.length + rex.length)) r.length = 15 by omega]
    exact h.decodeOpcode_take (rexExt_short hrex) (by omega)

end

/-! ### The statements about the encoder -/

/-- What the scan notes of the prefixes of an encoding. -/
theorem prefixesOf_prefixPart (c : Ctx) (i : Instr) :
    (prefixesOf c (i.prefixPart c)).has66 = i.shape.isSse ∧
    addrNoted c (prefixesOf c (i.prefixPart c)) i.shape.field ∧
    (prefixesOf c (i.prefixPart c)).hasF0 = i.enc.lock ∧
    (prefixesOf c (i.prefixPart c)).hasF2 = false ∧ (prefixesOf c (i.prefixPart c)).hasF3 = false := by
  have hps := allPrefixes_prefixPart c i
  obtain ⟨h66, h67, hF0, hF2, hF3⟩ := prefixPart_flags c i
  refine ⟨?_, fun m hm => ?_, ?_, ?_, ?_⟩
  · rw [prefixesOf_has66 hps, Bool.eq_iff_iff, decide_eq_true_iff, h66]
  · rw [prefixesOf_has67 hps, Bool.eq_iff_iff, decide_eq_true_iff, h67, decide_eq_true_iff]
    simp [hm]
  · rw [prefixesOf_hasF0 hps, Bool.eq_iff_iff, decide_eq_true_iff, hF0]
  · rw [prefixesOf_hasF2 hps, decide_eq_false_iff_not]
    exact hF2
  · rw [prefixesOf_hasF3 hps, decide_eq_false_iff_not]
    exact hF3

theorem vexBarred_prefixPart {c : Ctx} {i : Instr} (hw : i.wf c = true) (hvex : i.shape.isVexShape = true) :
    vexBarred c (prefixesOf c (i.prefixPart c)) (rexExt i.shape.rexPart) = false := by
  obtain ⟨h66, -, hF0, hF2, hF3⟩ := prefixesOf_prefixPart c i
  cases hsh : i.shape with
  | mmx d src | sse d src => simp [hsh, Shape.isVexShape] at hvex
  | vex l d a src =>
    simp only [Instr.wf, hsh, Shape.wf, lockOk, Bool.and_eq_true, decide_eq_true_eq, Bool.not_eq_true'] at hw
    obtain ⟨⟨⟨⟨⟨⟨⟨hreal, hv86⟩, -⟩, -⟩, -⟩, -⟩, -⟩, hlock⟩ := hw
    simp [vexBarred, hF0, h66, hF2, hF3, hsh, hlock, hreal, hv86, Shape.isSse, Shape.rexPart, rexExt]

theorem shape_wf_of_wf {c : Ctx} {i : Instr} (hw : i.wf c = true) : i.shape.wf c = true ∧ i.enc.len ≤ 15 := by
  simp only [Instr.wf, Bool.and_eq_true, decide_eq_true_eq] at hw
  obtain ⟨⟨⟨hshape, -⟩, hlen⟩, -⟩ := hw
  exact ⟨hshape, hlen⟩

/-- Settles O50: behind the prefixes of an encoding the form part is read as the form encoded, and the bytes that make
it up are as many as the instruction's length. -/
theorem decodeOfEncodeIsTheInstruction : Obligations.DecodeOfEncodeIsTheInstruction := by
  intro c i rest hw hlen
  have hps := allPrefixes_prefixPart c i
  obtain ⟨h66, haddr, hF0, hF2, hF3⟩ := prefixesOf_prefixPart c i
  obtain ⟨hshape, hle⟩ := shape_wf_of_wf hw
  have hlenEq := Laws.encode_length c i hlen
  rw [decode_append (hlenEq ▸ hle)]
  generalize rest.take (15 - (i.encode c).length) = rest'
  obtain ⟨sh, hread, hsame⟩ := formRead_encode hw haddr (.inr ⟨hF2, hF3⟩) (fun hsse => h66.trans hsse) rest'
  obtain rfl : sh = i.shape := hsame (fieldSeen_prefixPart hlen) fun _ => h66
  obtain ⟨j, hj, henc, helem, hsh⟩ := decodeAll_formRead hps (rexPart_ok hshape) hread (vexBarred_prefixPart hw)
  have hji : j = i := by
    refine instr_eq_of_parts ?_ helem hsh
    rw [encode_eq_parts] at hlenEq
    simp only [List.length_append] at hlenEq henc
    rw [henc, hF0, show _ - rest'.length = i.enc.len by omega]
  rw [encode_eq_parts, List.append_assoc _ _ rest', hj, hji]

end Sys2Proof

/-! ## What the decoder answers (spec/30_encoding.md R74, R75, R79, R85) -/

namespace Sys2Proof

/-! ### The operands of a form read -/

section
variable {c : Ctx} {a : AddrSize} {e : Ext} {seg : Option Seg} {q : ModRM}

theorem mmSrc_read (h : FieldRead c a e seg q.rm) :
    q.mmSrc.mmField = q.rm ∧ mmSrcOk c q.mmSrc = true ∧ q.mmSrc.mmExt.within e := by
  obtain ⟨reg, rm⟩ := q
  cases rm with
  | inl n => exact ⟨rfl, rfl, by simp [ModRM.mmSrc, RegMem.mmExt, Ext.within, Ext.none]⟩
  | inr m =>
    obtain ⟨-, -, hwf, -, hx, hb⟩ := h
    exact ⟨rfl, hwf, by simp [ModRM.mmSrc, RegMem.mmExt, MemOp.ext], hx, hb⟩

theorem vecSrc_read (h : FieldRead c a e seg q.rm) (he : c.long = false → e = Ext.none) :
    (q.vecSrc e).vecField = q.rm ∧ vecSrcOk c (q.vecSrc e) = true ∧
      ((q.vecSrc e).vecExt (regNum e.r q.reg)).within e := by
  obtain ⟨reg, rm⟩ := q
  cases rm with
  | inl n =>
    exact ⟨by simp [ModRM.vecSrc, RegMem.vecField], regOk_regNum n fun h => by simp [he h, Ext.none],
      by simp [ModRM.vecSrc, RegMem.vecExt, Ext.within]⟩
  | inr m =>
    obtain ⟨-, -, hwf, hext⟩ := h
    exact ⟨rfl, hwf, by simpa [ModRM.vecSrc, RegMem.vecExt] using hext⟩
end

theorem rexBytes_length_le {c : Ctx} {rex : List Byte} {x : Ext} (hrex : RexBytes c rex)
    (h : x.within ((rexExt rex).getD Ext.none)) : (rexBytes x).length ≤ rex.length := by
  rcases hrex with rfl | ⟨b, rfl, -⟩
  · obtain ⟨hr, hx, hb⟩ := h
    have hnone : x = Ext.none := by
      cases x
      simp_all [rexExt, Ext.none]
    simp [rexBytes, hnone]
  · unfold rexBytes
    split <;> simp

theorem vexBytes_length_le {c : Ctx} {b : Byte} {pl : List Byte} {v : Vex} {x : Ext} (hv : VexBytes c b pl v)
    (h : x.within v.ext) (a : Fin 16) (l : Bool) : (vexBytes x a l).length ≤ 1 + pl.length := by
  obtain ⟨-, hx, hb⟩ := h
  cases hv with
  | two p =>
    have hshort : ((vexOf2 p).inMode c).ext.x = false ∧ ((vexOf2 p).inMode c).ext.b = false := by
      unfold Vex.inMode
      split <;> simp [vexOf2, Ext.none]
    have hxb : (x.x || x.b) = false := by simp_all
    simp [vexBytes, hxb]
  | three p1 p2 =>
    unfold vexBytes
    split <;> simp

theorem vex_vvvv_ok {c : Ctx} {b : Byte} {pl : List Byte} {v : Vex} (hv : VexBytes c b pl v) :
    regOk c v.vvvv.toFin = true := by
  have hlow : ∀ y : BitVec 4, (y &&& 7#4).toFin.val < 8 := by decide
  cases hc : c.long with
  | true => simp [regOk, hc]
  | false => cases hv <;> simpa [regOk, hc, Vex.inMode] using hlow _

/-- What is known of a form read, `rexLen` bytes of REX and `len` bytes of its own: its operand is one the mode has, and
the encoder's bytes for it are no more than those read. -/
structure FormSound (c : Ctx) (p : Prefixes) (rexLen len : Nat) (k : Elem) (sh : Shape) : Prop where
  field : ∃ e, FieldRead c (c.addrSize p.has67) e p.seg sh.field
  wf : (sh.isVexShape = true → c.mode ≠ .real ∧ c.mode ≠ .v8086) → sh.wf c = true
  sse : sh.isSse = true → p.has66 = true
  short : sh.rexPart.length + (sh.formPart c k).length ≤ rexLen + len

theorem FormRead.sound {c : Ctx} {p : Prefixes} {rex r rest : List Byte} {k : Elem} {sh : Shape}
    (hrex : RexBytes c rex) (h : FormRead c p (rexExt rex) r k sh rest) :
    ∃ len, r.length = len + rest.length ∧ FormSound c p rex.length len k sh := by
  have ha := addrSize_ok c p.has67
  have he := rexExt_short hrex
  cases h with
  | @mmx op k r rest q hop hF2 hF3 h66 hk hq =>
    obtain ⟨hfield, hlen⟩ := takeModRM_some ha he hq
    obtain ⟨hsrc, hok, hext⟩ := mmSrc_read hfield
    have hrexLen := rexBytes_length_le hrex hext
    refine ⟨2 + r.length - rest.length, by simp only [List.length_cons]; omega,
      ⟨_, hsrc.symm ▸ hfield⟩, fun _ => hok, fun h => Bool.noConfusion h, ?_⟩
    have hreg : (BitVec.ofFin q.reg.toFin : BitVec 3) = q.reg := rfl
    simp only [Shape.rexPart, Shape.formPart, hsrc, hreg, List.length_cons]
    omega
  | @sse op k r rest q hop hF2 hF3 h66 hq =>
    obtain ⟨hfield, hlen⟩ := takeModRM_some ha he hq
    obtain ⟨hsrc, hok, hext⟩ := vecSrc_read hfield he
    have hrexLen := rexBytes_length_le hrex hext
    have hd : regOk c (regNum ((rexExt rex).getD Ext.none).r q.reg) = true :=
      regOk_regNum _ fun hc => by rw [he hc]; rfl
    refine ⟨2 + r.length - rest.length, by simp only [List.length_cons]; omega,
      ⟨_, hsrc.symm ▸ hfield⟩, fun _ => Bool.and_eq_true_iff.2 ⟨hd, hok⟩, fun _ => h66, ?_⟩
    simp only [Shape.rexPart, Shape.formPart, hsrc, lowBits_regNum, List.length_cons]
    omega
  | @vex b b1 op k pl r rest v q hv hvex hmap hpp hop hq =>
    have hve := vex_ext_short hv
    obtain ⟨hfield, hlen⟩ := takeModRM_some ha hve hq
    obtain ⟨hsrc, hok, hext⟩ := vecSrc_read hfield hve
    have hvexLen := vexBytes_length_le hv hext v.vvvv.toFin v.l
    have hd : regOk c (regNum v.ext.r q.reg) = true := regOk_regNum _ fun hc => by simp [hve hc, Ext.none]
    refine ⟨3 + pl.length + r.length - rest.length,
      by simp only [List.cons_append, List.length_cons, List.length_append]; omega,
      ⟨_, hsrc.symm ▸ hfield⟩, fun hmode => ?_, fun h => Bool.noConfusion h, ?_⟩
    · obtain ⟨hreal, hv86⟩ := hmode rfl
      simp [Shape.wf, hreal, hv86, hd, hok, vex_vvvv_ok hv]
    · simp only [Shape.rexPart, Shape.formPart, hsrc, lowBits_regNum, List.length_nil, List.length_cons,
        List.length_append] at hvexLen ⊢
      omega

/-- The prefixes an encoding needs are among those the scan noted. -/
theorem FormSound.fixedPrefixes_length_le {c : Ctx} {p : Prefixes} {n len : Nat} {k : Elem} {sh : Shape}
    (h : FormSound c p n len k sh) :
    (sh.fixedPrefixes c p.hasF0).length + (if sh.needsOverride then 1 else 0) ≤ p.cost := by
  have hlock : (if p.hasF0 then [(0xF0 : Byte)] else []).length = p.hasF0.toNat := by cases p.hasF0 <;> rfl
  have hsse : (if sh.isSse then [(0x66 : Byte)] else []).length ≤ p.has66.toNat := by
    cases hs : sh.isSse with
    | false => simp
    | true => simp [h.sse hs]
  have haddr : (addrPrefix c sh.field).length + (if sh.needsOverride then 1 else 0) ≤
      p.has67.toNat + p.seg.isSome.toNat := by
    obtain ⟨e, hfield⟩ := h.field
    cases hf : sh.field with
    | inl n =>
      have hno : sh.needsOverride = false := by
        cases sh with
        | mmx d src | sse d src | vex l d a src =>
          cases src with
          | reg => rfl
          | mem => cases hf
      simp [addrPrefix, hno]
    | inr m =>
      rw [hf] at hfield
      obtain ⟨hasize, hseg, -, -⟩ := hfield
      have h67 : (addrPrefix c (.inr m)).length ≤ p.has67.toNat := by
        cases hp : p.has67 <;> simp [hasize, addrPrefix, hp, Ctx.addrSize]
        split <;> simp
      have hover : (if sh.needsOverride then 1 else 0) ≤ p.seg.isSome.toNat := by
        rw [(padSeg_of_field hf).2, hseg]
        cases p.seg <;> simp
        split <;> simp
      omega
  simp only [Shape.fixedPrefixes, List.length_append, Prefixes.cost]
  omega

theorem formPart_length_ge (c : Ctx) (k : Elem) (sh : Shape) : 3 ≤ (sh.formPart c k).length := by
  have hmod : ∀ reg f, 1 ≤ (modRMBytes c reg f).length := by
    intro reg f
    cases f <;> simp [modRMBytes]
  cases sh with
  | mmx d src =>
    have := hmod (BitVec.ofFin d) src.mmField
    simp only [Shape.formPart, List.length_cons]
    omega
  | sse d src =>
    have := hmod (lowBits d) src.vecField
    simp only [Shape.formPart, List.length_cons]
    omega
  | vex l d a src =>
    have := hmod (lowBits d) src.vecField
    have hvex : 1 ≤ (vexBytes (src.vecExt d) a l).length := by
      unfold vexBytes
      split <;> simp
    simp only [Shape.formPart, List.length_append, List.length_cons]
    omega

theorem of_vexBarred_false {c : Ctx} {p : Prefixes} {rex : Option Ext} (h : vexBarred c p rex = false) :
    p.hasF0 = false ∧ c.mode ≠ .real ∧ c.mode ≠ .v8086 := by
  simp only [vexBarred, Bool.or_eq_false_iff, decide_eq_false_iff_not] at h
  obtain ⟨⟨⟨⟨⟨⟨hF0, -⟩, -⟩, -⟩, -⟩, hreal⟩, hv86⟩ := h
  exact ⟨hF0, hreal, hv86⟩

/-- Settles O51: an answered instruction is a form read, so its operand is one the mode has; and the prefixes and bytes
its encoding needs are among those read. -/
theorem decodedInstructionsAreWellFormed : Obligations.DecodedInstructionsAreWellFormed := by
  intro c bytes i h
  obtain ⟨ps, rex, r, hbytes, hps, hrex, hdec⟩ := decodeAll_split c (bytes.take maxInstrLen)
  rw [decode, hdec] at h
  obtain ⟨rest, hread, henc, hbar⟩ := formRead_of_decodeOpcode h
  obtain ⟨len, hrlen, hsound⟩ := hread.sound hrex
  have hlock : i.enc.lock = (prefixesOf c ps).hasF0 := by rw [henc]
  have htotal : i.enc.len = ps.length + rex.length + len := by
    rw [henc, hbytes]
    simp only [List.length_append]
    omega
  have hle : (bytes.take maxInstrLen).length ≤ 15 ∧ (bytes.take maxInstrLen).length ≤ bytes.length := by
    simp [maxInstrLen]
  obtain ⟨h15, hbound⟩ := hle
  rw [hbytes] at h15 hbound
  simp only [List.length_append] at h15 hbound
  have hshort := hsound.short
  have hthree := formPart_length_ge c i.elem i.shape
  have hwf : i.shape.wf c = true := hsound.wf fun hvex => by
    exact (of_vexBarred_false (hbar hvex)).2
  have hlockOk : lockOk i.shape i.enc.lock = true := by
    cases hsh : i.shape with
    | mmx d src | sse d src => rfl
    | vex l d a src =>
      obtain ⟨hF0, -⟩ := of_vexBarred_false (hbar (by rw [hsh]; rfl))
      simp [lockOk, hlock, hF0]
  have hmin : i.minLen c ≤ i.enc.len := by
    have hfixed := hsound.fixedPrefixes_length_le
    have hcost := prefixesOf_cost_le c ps
    rw [Instr.minLen, Instr.core, core_eq_parts, hlock]
    simp only [List.length_append]
    omega
  refine ⟨?_, decide_eq_true hmin, by omega, by omega⟩
  have h3 : 3 ≤ i.enc.len := by omega
  have hmax : i.enc.len ≤ maxInstrLen := by rw [maxInstrLen]; omega
  simp [Instr.wf, hwf, hlockOk, h3, hmax]

end Sys2Proof

/-! ## Instructions longer than fifteen bytes (spec/30_encoding.md R79) -/

namespace Sys2Proof

theorem isVexForm_eq (i : Instr) : Machine.isVexForm i = i.shape.isVexShape := by
  unfold Machine.isVexForm Shape.isVexShape
  cases i.shape <;> rfl

theorem memOperandOf_of_field {i : Instr} {m : MemOp} (h : i.shape.field = .inr m) :
    ∃ k n, Machine.memOperandOf i = some (k, m, n) := by
  unfold Machine.memOperandOf
  cases hsh : i.shape with
  | mmx d src | sse d src | vex l d a src =>
    rw [hsh] at h
    cases src <;> cases h
    exact ⟨_, _, rfl⟩

theorem AllPrefixes.append {c : Ctx} {ps qs : List Byte} (hps : AllPrefixes c ps) (hqs : AllPrefixes c qs) :
    AllPrefixes c (ps ++ qs) := by
  intro b hb
  rcases List.mem_append.1 hb with h | h
  · exact hps b h
  · exact hqs b h

/-- A form that the decoder reads when it looks at all the bytes, but longer than fifteen. -/
theorem decode_of_decodeAll_long {c : Ctx} {bytes : List Byte} {i : Instr} (h : decodeAll c bytes = .instr i)
    (hlong : 15 < i.enc.len) : decode c bytes = .gp := by
  obtain ⟨ps, rex, r, rfl, hps, hrex, hdec⟩ := decodeAll_split c bytes
  rw [hdec] at h
  obtain ⟨rest, hread, henc, -⟩ := formRead_of_decodeOpcode h
  refine decode_overlong hps hrex hread ?_
  rw [henc] at hlong
  simp only [List.length_append] at hlong
  omega

/-- An encoding behind so many legacy prefixes that it is longer than fifteen bytes. -/
theorem decode_prefixed_encode {c : Ctx} {i : Instr} {ps : List Byte} (hw : i.wf c = true) (hlen : i.lenFits c = true)
    (hps : AllPrefixes c ps) (hrep : Machine.isVexForm i = true ∨ ((0xF2 : Byte) ∉ ps ∧ (0xF3 : Byte) ∉ ps))
    (h67 : (0x67 : Byte) ∈ ps → ∀ k m n, Machine.memOperandOf i = some (k, m, n) → m.asize ≠ c.defaultAddr)
    (hlong : 15 < ps.length + i.enc.len) (rest : List Byte) : decode c (ps ++ i.encode c ++ rest) = .gp := by
  have hall : AllPrefixes c (ps ++ i.prefixPart c) := hps.append (allPrefixes_prefixPart c i)
  obtain ⟨p66, p67, -, pF2, pF3⟩ := prefixPart_flags c i
  have haddr : addrNoted c (prefixesOf c (ps ++ i.prefixPart c)) i.shape.field := by
    intro m hm
    rw [prefixesOf_has67 hall, Bool.eq_iff_iff, decide_eq_true_iff, decide_eq_true_iff, List.mem_append, p67]
    constructor
    · rintro (h | ⟨m', hm', hne⟩)
      · obtain ⟨k, n, hop⟩ := memOperandOf_of_field hm
        exact h67 h k m n hop
      · rw [hm] at hm'
        cases hm'
        exact hne
    · exact fun hne => .inr ⟨m, hm, hne⟩
  have hrep' : i.shape.isVexShape = true ∨ ((prefixesOf c (ps ++ i.prefixPart c)).hasF2 = false ∧
      (prefixesOf c (ps ++ i.prefixPart c)).hasF3 = false) := by
    rw [isVexForm_eq] at hrep
    rw [prefixesOf_hasF2 hall, prefixesOf_hasF3 hall, decide_eq_false_iff_not, decide_eq_false_iff_not,
      List.mem_append, List.mem_append, not_or, not_or]
    exact hrep.imp_right fun ⟨h2, h3⟩ => ⟨⟨h2, pF2⟩, h3, pF3⟩
  have hsse : i.shape.isSse = true → (prefixesOf c (ps ++ i.prefixPart c)).has66 = true := by
    intro h
    rw [prefixesOf_has66 hall, decide_eq_true_iff, List.mem_append]
    exact .inr (p66.2 h)
  obtain ⟨sh, hread, -⟩ := formRead_encode hw haddr hrep' hsse rest
  have hgp := decode_overlong hall (rexPart_ok (shape_wf_of_wf hw).1) hread (by
    have hlenEq := Laws.encode_length c i hlen
    rw [encode_eq_parts] at hlenEq
    simp only [List.length_append] at hlenEq ⊢
    omega)
  rw [encode_eq_parts]
  simpa only [List.append_assoc] using hgp

/-! ### Runs of `66` before a register form -/

theorem allPrefixes_replicate (c : Ctx) (k : Nat) : AllPrefixes c (List.replicate k 0x66) := by
  intro b hb
  rw [List.eq_of_mem_replicate hb]
  rfl

theorem formRead_punpcklbw (c : Ctx) {k : Nat} (hk : k ≠ 0) (reg rm : BitVec 3) (r : List Byte) :
    FormRead c (prefixesOf c (List.replicate k 0x66)) (rexExt []) (0x0F :: 0x60 :: (3#2 ++ reg ++ rm) :: r) .bw
      (.sse (regNum false reg) (.reg (regNum false rm))) r := by
  have hps := allPrefixes_replicate c k
  have hq := takeModRM_encode (c := c) (a := c.addrSize (prefixesOf c (List.replicate k 0x66)).has67) (e := Ext.none)
    (f := .inl rm) trivial (prefixesOf c (List.replicate k 0x66)).seg reg r
  refine .sse (q := ⟨reg, .inl rm⟩) rfl ?_ ?_ ?_ hq
  · rw [prefixesOf_hasF2 hps]
    simp [List.mem_replicate]
  · rw [prefixesOf_hasF3 hps]
    simp [List.mem_replicate]
  · rw [prefixesOf_has66 hps]
    simp [List.mem_replicate, hk]

theorem decode_replicate_long (c : Ctx) (reg rm : BitVec 3) {k : Nat} (hk : 13 ≤ k) (r : List Byte) :
    decode c (List.replicate k 0x66 ++ [0x0F, 0x60, 3#2 ++ reg ++ rm] ++ r) = .gp := by
  have h := decode_overlong (rex := []) (allPrefixes_replicate c k) (.inl rfl)
    (formRead_punpcklbw c (by omega) reg rm r) (by
      simp only [List.length_replicate, List.length_cons, List.length_nil]
      omega)
  simpa only [List.append_nil, List.append_assoc, List.cons_append, List.nil_append] using h

theorem decode_replicate_twelve (c : Ctx) (reg rm : BitVec 3) (r : List Byte) :
    decode c (List.replicate 12 0x66 ++ [0x0F, 0x60, 3#2 ++ reg ++ rm] ++ r) =
      .instr (.punpcklbwXmm ⟨15, false⟩ (regNum false reg) (.reg (regNum false rm))) := by
  obtain ⟨i, hi, henc, helem, hshape⟩ := decodeAll_formRead (rex := []) (allPrefixes_replicate c 12) (.inl rfl)
    (formRead_punpcklbw c (by decide) reg rm []) (fun h => Bool.noConfusion h)
  have hF0 : (prefixesOf c (List.replicate 12 0x66)).hasF0 = false := by
    rw [prefixesOf_hasF0 (allPrefixes_replicate c 12)]
    decide
  rw [hF0] at henc
  have hii : i = .punpcklbwXmm ⟨15, false⟩ (regNum false reg) (.reg (regNum false rm)) :=
    instr_eq_of_parts henc helem hshape
  rw [decode_append (by simp)]
  simpa [hii] using hi

/-- Settles O58. -/
theorem overlongInstructionsAreGp : Obligations.OverlongInstructionsAreGp :=
  ⟨fun _ _ _ h hlong => decode_of_decodeAll_long h hlong,
    fun _ _ _ rest hw hlen hps hrep h67 hlong => decode_prefixed_encode hw hlen hps hrep h67 hlong rest,
    fun _ _ hlen hps => decode_allPrefixes hlen hps,
    fun c reg rm _ r hk => decode_replicate_long c reg rm (by omega) r,
    decode_replicate_twelve⟩

end Sys2Proof

/-! ## Neighbours of the group and barred VEX prefixes (spec/30_encoding.md R74, R77, R80) -/

namespace Sys2Proof

/-! ### The opcode behind prefixes and REX -/

/-- Behind prefixes and REX, and where the bytes of `u` lie within the first fifteen, the decoder goes on from `u`. -/
theorem decode_behind {c : Ctx} {ps rex u : List Byte} (hps : AllPrefixes c ps) (hrex : RexBytes c rex)
    (hu : StartsForm u) (hne : u ≠ []) (hlen : ps.length + rex.length + u.length ≤ 15) (r : List Byte) :
    ∃ r', decode c (ps ++ rex ++ (u ++ r)) =
      decodeOpcode c (ps.length + rex.length + (u ++ r').length) (prefixesOf c ps) (rexExt rex) (u ++ r') := by
  have hstart : ∀ r', StartsForm (u ++ r') := by
    cases u with
    | nil => exact absurd rfl hne
    | cons b u => exact fun _ => hu
  refine ⟨r.take (15 - (ps ++ rex ++ u).length), ?_⟩
  rw [← List.append_assoc, decode_append (by simpa only [List.length_append] using hlen), List.append_assoc _ u]
  exact decodeAll_append hps hrex (hstart _)

theorem isVex_of {c : Ctx} {b : Byte} (h : c.mode = .long64 ∨ b.extractLsb' 6 2 = 3) : isVex c b = true := by
  rcases h with h | h
  · simp [isVex, long_of_mode h]
  · have hb : b.extractLsb 7 6 = 3#2 := h
    simp [isVex, hb]

/-! ### Neighbours -/

theorem decodeLegacy_rep {c : Ctx} {n : Nat} {p : Prefixes} {rex : Option Ext} {op : Byte} {r : List Byte}
    (hp : p.hasF2 = true ∨ p.hasF3 = true) (hop : (elemOf op).isSome = true) :
    decodeLegacy c n p rex (op :: r) = .notInGroup := by
  obtain ⟨k, hk⟩ := Option.isSome_iff_exists.1 hop
  have hrep : (p.hasF2 || p.hasF3) = true := by simpa using hp
  simp only [decodeLegacy, hk, hrep, if_true]

theorem decodeLegacy_qdq {c : Ctx} {n : Nat} {p : Prefixes} {rex : Option Ext} {op : Byte} {r : List Byte}
    (hop : elemOf op = some .qdq) (h66 : p.has66 = false) : decodeLegacy c n p rex (op :: r) = .notInGroup := by
  simp [decodeLegacy, hop, h66]

theorem vexBarred_iff {c : Ctx} {ps rex : List Byte} (hps : AllPrefixes c ps) (hrex : RexBytes c rex) :
    vexBarred c (prefixesOf c ps) (rexExt rex) = true ↔
      (0xF0 : Byte) ∈ ps ∨ (0x66 : Byte) ∈ ps ∨ (0xF2 : Byte) ∈ ps ∨ (0xF3 : Byte) ∈ ps ∨ rex ≠ [] ∨
        c.mode = .real ∨ c.mode = .v8086 := by
  simp only [vexBarred, prefixesOf_hasF0 hps, prefixesOf_has66 hps, prefixesOf_hasF2 hps, prefixesOf_hasF3 hps,
    rexExt_isSome hrex, Bool.or_eq_true, decide_eq_true_eq, or_assoc]

theorem inMode_map_pp (c : Ctx) (v : Vex) : (v.inMode c).map = v.map ∧ (v.inMode c).pp = v.pp := by
  unfold Vex.inMode
  split <;> exact ⟨rfl, rfl⟩

theorem decodeVexBody_fields {c : Ctx} {n : Nat} {p : Prefixes} {b : Byte} {pl : List Byte} {v : Vex}
    (hv : VexBytes c b pl v) (h : v.map ≠ 1#5 ∨ v.pp ≠ 1#2) (r : List Byte) :
    decodeVexBody c n p (b = 0xC4) (pl ++ r) = .notInGroup := by
  have hcond : (v.map ≠ 1#5 || v.pp ≠ 1#2) = true := by simpa using h
  rw [decodeVexBody, hv.takeVex]
  simp only [hcond, if_true]

/-- Behind prefixes that do not bar it, VEX with another map or `pp` is not of the group. -/
theorem decode_vex_fields {c : Ctx} {ps : List Byte} {b b1 : Byte} {pl : List Byte} {v : Vex}
    (hps : ∀ q ∈ ps, (Prefixes.empty.note c q).isSome = true ∧ q ≠ 0xF0 ∧ q ≠ 0x66 ∧ q ≠ 0xF2 ∧ q ≠ 0xF3)
    (hreal : c.mode ≠ .real) (hv86 : c.mode ≠ .v8086) (hv : VexBytes c b (b1 :: pl) v) (hvex : isVex c b1 = true)
    (h : v.map ≠ 1#5 ∨ v.pp ≠ 1#2) (hlen : ps.length + (b :: b1 :: pl).length ≤ 15) (r : List Byte) :
    decode c (ps ++ b :: b1 :: (pl ++ r)) = .notInGroup := by
  have hall : AllPrefixes c ps := fun q hq => (hps q hq).1
  have hnone : RexBytes c [] := .inl rfl
  have hbar : vexBarred c (prefixesOf c ps) (rexExt []) = false := by
    rw [← Bool.not_eq_true, vexBarred_iff hall hnone]
    rintro (h | h | h | h | h | h | h)
    · obtain ⟨-, hF0, -⟩ := hps _ h
      exact hF0 rfl
    · obtain ⟨-, -, h66, -⟩ := hps _ h
      exact h66 rfl
    · obtain ⟨-, -, -, hF2, -⟩ := hps _ h
      exact hF2 rfl
    · obtain ⟨-, -, -, -, hF3⟩ := hps _ h
      exact hF3 rfl
    · exact h rfl
    · exact hreal h
    · exact hv86 h
  obtain ⟨r', hr'⟩ := decode_behind hall hnone (startsForm_cons (.inr hv.byte) (b1 :: pl))
    (List.cons_ne_nil _ _) hlen r
  rw [List.append_nil] at hr'
  refine hr'.trans ?_
  rw [List.cons_append, List.cons_append, decodeOpcode_vex hv.byte, if_pos hvex, decodeVex, hbar,
    if_neg Bool.false_ne_true, ← List.cons_append]
  exact decodeVexBody_fields hv h r'

/-- Settles O56: what decides lies before the operand, so each neighbour is refused whatever follows. -/
theorem neighbouringEncodingsAreRefused : Obligations.NeighbouringEncodingsAreRefused := by
  refine ⟨fun c ps rex op r hps hrex hlen => ⟨fun hrep hop => ?_, fun h66 => ?_⟩,
    fun c ps p p1 p2 r hreal hv86 hps => ⟨fun hlen hvex hpp => ?_, fun hlen hvex hfields => ?_⟩,
    fun c ps b b1 r hps hlen hlong hb hb1 => ?_⟩
  · obtain ⟨r', hr'⟩ := decode_behind hps hrex (startsForm_cons (b := 0x0F) (.inl rfl) [op]) (by simp) hlen r
    refine hr'.trans (decodeLegacy_rep ?_ ?_)
    · rw [prefixesOf_hasF2 hps, prefixesOf_hasF3 hps]
      simpa using hrep
    · rcases hop with rfl | rfl | rfl | rfl <;> rfl
  · obtain ⟨r', hr'⟩ := decode_behind hps hrex (startsForm_cons (b := 0x0F) (.inl rfl) [0x6C]) (by simp) hlen r
    refine hr'.trans (decodeLegacy_qdq (op := 0x6C) rfl ?_)
    rw [prefixesOf_has66 hps]
    simpa using h66
  · refine decode_vex_fields hps hreal hv86 (.two p) (isVex_of hvex) (.inr ?_) hlen r
    rw [(inMode_map_pp c _).2]
    exact hpp
  · refine decode_vex_fields hps hreal hv86 (.three p1 p2) (isVex_of hvex) ?_ hlen r
    rw [(inMode_map_pp c _).1, (inMode_map_pp c _).2]
    exact hfields
  · obtain ⟨r', hr'⟩ := decode_behind (rex := []) hps (.inl rfl) (startsForm_cons (.inr hb) [b1]) (by simp) hlen r
    have hno : isVex c b1 = false := by
      have hc : c.long = false := decide_eq_false hlong
      have hb1' : ¬ b1.extractLsb 7 6 = 3#2 := hb1
      simp [isVex, hc, hb1']
    rw [List.append_nil] at hr'
    refine hr'.trans ?_
    rw [List.cons_append, List.cons_append, decodeOpcode_vex hb, hno, if_neg Bool.false_ne_true]

/-! ### Barred VEX prefixes -/

theorem outOfBytes_eq_gp {n : Nat} (h : outOfBytes n = .gp) : n = 15 := by
  unfold outOfBytes at h
  split at h
  · assumption
  · cases h

theorem VexBytes.length {c : Ctx} {b : Byte} {pl : List Byte} {v : Vex} (h : VexBytes c b pl v) :
    pl.length = if b = 0xC4 then 2 else 1 := by
  cases h <;> rfl

theorem takeVex_isSome {c : Ctx} {r : List Byte} (three : Bool) (hr : 2 ≤ r.length) :
    (takeVex c three r).isSome = true := by
  match r, hr with
  | p1 :: p2 :: r, _ => cases three <;> rfl

/-- Where the longest VEX instruction still ends within fifteen bytes, no VEX body is longer. -/
theorem decodeVexBody_ne_gp {c : Ctx} {n : Nat} {p : Prefixes} {b : Byte} {r : List Byte} (hb : b = 0xC4 ∨ b = 0xC5)
    (hroom : n = 15 → (if b = 0xC4 then 9 else 8) ≤ r.length) : decodeVexBody c n p (b = 0xC4) r ≠ .gp := by
  intro h
  unfold decodeVexBody at h
  split at h
  · next hv =>
    have hr := hroom (outOfBytes_eq_gp h)
    have hsome := takeVex_isSome (c := c) (r := r) (b = 0xC4) (by split at hr <;> omega)
    rw [hv] at hsome
    cases hsome
  next v r1 hv =>
  obtain ⟨pl, rfl, hpl⟩ := vexBytes_of_takeVex hb hv
  have hlen := hpl.length
  rw [List.length_append] at hroom
  split at h
  · cases h
  split at h
  · have hr := hroom (outOfBytes_eq_gp h)
    simp only [List.length_nil] at hr
    by_cases h4 : b = 0xC4 <;> simp only [h4, if_true, if_false] at hr hlen <;> omega
  next op r2 =>
  split at h
  · cases h
  split at h
  · next hq =>
    have hr := hroom (outOfBytes_eq_gp h)
    simp only [List.length_cons] at hr
    have hsome := takeModRM_isSome (r := r2) (vex_ext_short hpl) (c.addrSize p.has67) p.seg
      (by by_cases h4 : b = 0xC4 <;> simp only [h4, if_true, if_false] at hr hlen <;> omega)
    rw [hq] at hsome
    cases hsome
  · cases h

theorem decode_barred_vex {c : Ctx} {ps rex : List Byte} {b b1 : Byte} (hps : AllPrefixes c ps) (hrex : RexBytes c rex)
    (hb : b = 0xC4 ∨ b = 0xC5) (hvex : isVex c b1 = true)
    (hbar : vexBarred c (prefixesOf c ps) (rexExt rex) = true) (hlen : ps.length + rex.length + 2 ≤ 15)
    (r : List Byte) :
    ∃ r', decode c (ps ++ rex ++ b :: b1 :: r) =
      if decodeVexBody c (ps.length + rex.length + (b :: b1 :: r').length) (prefixesOf c ps) (b = 0xC4) (b1 :: r') = .gp
      then .gp else .ud := by
  obtain ⟨r', hr'⟩ := decode_behind hps hrex (startsForm_cons (.inr hb) [b1]) (by simp) hlen r
  refine ⟨r', hr'.trans ?_⟩
  rw [List.cons_append, List.cons_append, List.nil_append, decodeOpcode_vex hb, if_pos hvex, decodeVex, hbar,
    if_pos rfl]

/-- Settles O57. -/
theorem barredVexPrefixesAreUd : Obligations.BarredVexPrefixesAreUd := by
  intro c ps rex b b1 r hps hrex hb hvex hbar
  have hbarred := (vexBarred_iff hps hrex).2 hbar
  refine ⟨fun hroom => ?_, fun hlen => ?_⟩
  · have hlen : ps.length + rex.length + 2 ≤ 15 := by split at hroom <;> omega
    obtain ⟨r', hr'⟩ := decode_barred_vex hps hrex hb (isVex_of hvex) hbarred hlen r
    rw [hr', if_neg]
    refine decodeVexBody_ne_gp hb fun h15 => ?_
    simp only [List.length_cons] at h15 ⊢
    by_cases h4 : b = 0xC4 <;> simp only [h4, if_true, if_false] at hroom ⊢ <;> omega
  · obtain ⟨r', hr'⟩ := decode_barred_vex hps hrex hb (isVex_of hvex) hbarred hlen r
    rw [hr']
    split
    · exact .inr rfl
    · exact .inl rfl

end Sys2Proof

/-! ### Encodings the spec writes out (R71, R72, R86) -/

namespace Sys2Proof

/-- Settles O54: seven closed words, each a run of the decoder. -/
theorem specWordsDecode : Obligations.SpecWordsDecode := by
  refine ⟨?_, ?_, ?_, ?_, ?_, ?_, ?_⟩ <;> rfl

/-- Settles O55, field by field: the first payload byte gives `R`, clear `X` and `B` and the map, and the second keeps
the lower seven bits of `P`. -/
theorem twoByteVexStandsForThreeByteVex : Obligations.TwoByteVexStandsForThreeByteVex := by
  intro p w
  have hhigh : ∀ k, 5 ≤ k →
      (p.extractLsb' 7 1 ++ 3#2 ++ 1#5).getLsbD k = (p.extractLsb' 7 1 ++ 3#2).getLsbD (k - 5) :=
    fun k hk => BitVec.getLsbD_append.trans (if_neg (by omega))
  have hr : (p.extractLsb' 7 1 ++ 3#2 ++ 1#5).getLsbD 7 = p.getLsbD 7 :=
    (hhigh 7 (by omega)).trans (BitVec.getLsbD_append.trans (by simp))
  have hx : (p.extractLsb' 7 1 ++ 3#2 ++ 1#5).getLsbD 6 = true :=
    (hhigh 6 (by omega)).trans (BitVec.getLsbD_append.trans (by simp))
  have hb : (p.extractLsb' 7 1 ++ 3#2 ++ 1#5).getLsbD 5 = true :=
    (hhigh 5 (by omega)).trans (BitVec.getLsbD_append.trans (by simp))
  have hmap : (p.extractLsb' 7 1 ++ 3#2 ++ 1#5).extractLsb 4 0 = 1#5 := BitVec.extractLsb'_append_eq_right
  have hlow : ∀ start len, start + len ≤ 7 →
      (w ++ p.extractLsb' 0 7).extractLsb' start len = p.extractLsb' start len := fun start len h => by
    rw [BitVec.extractLsb'_append_eq_of_add_le (by omega), BitVec.extractLsb'_extractLsb'_of_le h]
  have hv : (w ++ p.extractLsb' 0 7).extractLsb 6 3 = p.extractLsb 6 3 := hlow 3 4 (by omega)
  have hpp : (w ++ p.extractLsb' 0 7).extractLsb 1 0 = p.extractLsb 1 0 := hlow 0 2 (by omega)
  have hl : (w ++ p.extractLsb' 0 7).getLsbD 2 = p.getLsbD 2 :=
    BitVec.getLsbD_append.trans (by simp)
  simp only [vexOf3, vexOf2, hr, hx, hb, hmap, hv, hl, hpp, Bool.not_true]

end Sys2Proof

/-! ## Effective addresses and the step (spec/30_encoding.md R65 to R68, spec/20_memory.md R40, R48) -/

namespace Sys2Proof.Machine

/-! ### The effective address as a number -/

/-- The width of an address size, in bits. -/
def addrBits : AddrSize → Nat
  | .a16 => 16
  | .a32 => 32
  | .a64 => 64

theorem addrBits_le (a : AddrSize) : addrBits a ≤ 64 := by cases a <;> decide

theorem toNat_truncTo (a : AddrSize) (v : Word) : (truncTo a v).toNat = v.toNat % 2 ^ addrBits a := by
  have h64 : v.toNat % 18446744073709551616 = v.toNat := Nat.mod_eq_of_lt v.isLt
  cases a <;> simp [truncTo, addrBits, h64] <;> omega

/-- What holds modulo 2^64 holds modulo 2^A. -/
theorem modEq_addrBits {a : AddrSize} {x y : Int} (h : x ≡ y [ZMOD 2 ^ 64]) : x ≡ y [ZMOD 2 ^ addrBits a] :=
  h.of_dvd (pow_dvd_pow 2 (addrBits_le a))

theorem toNat_add_modEq (u v : Word) : ((u + v).toNat : Int) ≡ u.toNat + v.toNat [ZMOD 2 ^ 64] := by
  rw [BitVec.toNat_add]
  push_cast
  exact Int.mod_modEq _ _

theorem toNat_shiftLeft_modEq (v : Word) (k : Nat) : ((v <<< k).toNat : Int) ≡ v.toNat * 2 ^ k [ZMOD 2 ^ 64] := by
  rw [BitVec.toNat_shiftLeft, Nat.shiftLeft_eq]
  push_cast
  exact Int.mod_modEq _ _

theorem toNat_signExtend_modEq (d : BitVec 32) : ((d.signExtend 64).toNat : Int) ≡ d.toInt [ZMOD 2 ^ 64] := by
  rw [← BitVec.toInt_signExtend_of_le (x := d) (v := 64) (by decide), BitVec.toInt_eq_toNat_bmod]
  exact (Int.bmod_emod).symm

/-- The number an effective address starts from. -/
def State.baseNumber (s : State) (len : Nat) (a : AddrSize) : AddrBase → Int
  | .none => 0
  | .gpr r => ((s.gpr[r].toNat % 2 ^ addrBits a : Nat) : Int)
  | .next => ((s.rip.toNat + len : Nat) : Int)

/-- The number an effective address is indexed by. -/
def State.indexNumber (s : State) (a : AddrSize) : Option (Fin 16 × Fin 4) → Int
  | none => 0
  | some (r, k) => ((s.gpr[r].toNat % 2 ^ addrBits a * 2 ^ k.val : Nat) : Int)

theorem baseValue_modEq (s : State) (len : Nat) (a : AddrSize) (base : AddrBase) :
    ((s.baseValue len a base).toNat : Int) ≡ s.baseNumber len a base [ZMOD 2 ^ 64] := by
  cases base with
  | none => rfl
  | gpr r => rw [State.baseValue, State.readGpr, toNat_truncTo, State.baseNumber]
  | next =>
    rw [State.baseValue, State.baseNumber]
    refine (toNat_add_modEq _ _).trans ?_
    rw [BitVec.toNat_ofNat]
    push_cast
    exact (Int.mod_modEq _ _).add_left _

theorem indexValue_modEq (s : State) (a : AddrSize) (index : Option (Fin 16 × Fin 4)) :
    ((s.indexValue a index).toNat : Int) ≡ s.indexNumber a index [ZMOD 2 ^ 64] := by
  match index with
  | none => rfl
  | some (r, k) =>
    rw [State.indexValue, State.indexNumber]
    refine (toNat_shiftLeft_modEq _ _).trans ?_
    rw [State.readGpr, toNat_truncTo]
    push_cast
    rfl

theorem effAddr_toNat (s : State) (len : Nat) (m : MemOp) :
    ((s.effAddr len m).toNat : Int) =
      (s.baseNumber len m.asize m.base + s.indexNumber m.asize m.index + m.disp.toInt) % 2 ^ addrBits m.asize := by
  have hsum : ((s.baseValue len m.asize m.base + s.indexValue m.asize m.index + m.disp.signExtend 64).toNat : Int) ≡
      s.baseNumber len m.asize m.base + s.indexNumber m.asize m.index + m.disp.toInt [ZMOD 2 ^ 64] := by
    refine (toNat_add_modEq _ _).trans (Int.ModEq.add ?_ (toNat_signExtend_modEq _))
    exact (toNat_add_modEq _ _).trans ((baseValue_modEq s len m.asize m.base).add (indexValue_modEq s m.asize m.index))
  rw [State.effAddr, toNat_truncTo]
  push_cast
  exact modEq_addrBits hsum

/-- Settles O49: each term of the 64-bit sum is its number modulo 2^64, and A divides 64 bits. -/
theorem effectiveAddressIsAModularSum : Obligations.EffectiveAddressIsAModularSum := by
  intro s len m
  exact effAddr_toNat s len m

/-! ### The fetch -/

/-- Where the text holds the bytes of a list one after another, the fetch reads them first. -/
theorem fetchFrom_eq_append {s : State} (u : List Byte) (k n : Nat)
    (h : ∀ j, j < u.length → cellAt s.text (s.textAddr (k + j)) = u[j]?) (hn : u.length ≤ n) :
    ∃ r, s.fetchFrom k n = u ++ r := by
  induction u generalizing k n with
  | nil => exact ⟨_, rfl⟩
  | cons b u ih =>
    match n, hn with
    | n + 1, hn =>
      have hb : cellAt s.text (s.textAddr k) = some b := h 0 (by simp)
      have hrest : ∀ j, j < u.length → cellAt s.text (s.textAddr (k + 1 + j)) = u[j]? := by
        intro j hj
        have := h (j + 1) (by simpa using hj)
        rwa [List.getElem?_cons_succ, ← Nat.add_assoc, Nat.add_right_comm] at this
      obtain ⟨r, hr⟩ := ih (k + 1) n hrest (by simpa using hn)
      exact ⟨r, by simp only [State.fetchFrom, hb, hr, List.cons_append]⟩

/-- Settles O53: the fetch reads the encoding first, and the decoder reads the instruction back from it. -/
theorem stepRunsAnEncodingInTheText : Obligations.StepRunsAnEncodingInTheText := by
  intro i s hw hlen hfetch htext
  have hlenEq := Laws.encode_length s.ctx i hlen
  obtain ⟨-, hle⟩ := shape_wf_of_wf hw
  obtain ⟨r, hr⟩ := fetchFrom_eq_append (i.encode s.ctx) 0 maxInstrLen
    (fun j hj => by rw [Nat.zero_add]; exact htext j (hlenEq ▸ hj)) (hlenEq ▸ hle)
  have hdec : decode s.ctx s.fetch = .instr i := by
    rw [State.fetch, hr]
    exact decodeOfEncodeIsTheInstruction s.ctx i r hw hlen
  simp only [step, hfetch, hdec, Bool.false_eq_true, if_false]

end Sys2Proof.Machine

/-! ## The interleave functions (spec/40_interleave_functions.md R100 to R116)

Each of the eleven tables is read once, pair by pair, and gives `Interleaves` on each of its lanes; the general law
gives the same. Everything else the rules say follows from `Interleaves` alone: its block of the result agrees with
another one exactly when the blocks of the sources agree (`Interleaves.block_eq_iff`), and one pair of it is two
elements side by side (`Interleaves.pair`). -/

namespace Sys2Proof.Machine

/-! ### Blocks of elements -/

theorem extractLsb'_extractLsb'_within {W p len start k : Nat} {a : BitVec W} (h : start + k ≤ len) :
    (a.extractLsb' p len).extractLsb' start k = a.extractLsb' (p + start) k := by
  apply BitVec.eq_of_getLsbD_eq
  intro j hj
  simp [hj, show start + j < len by omega, Nat.add_assoc]

/-- Element `i` lies within a block of `n` elements. -/
theorem element_end_le {i n : Nat} (w : Nat) (hi : i < n) : i * w + w ≤ n * w := by
  rw [← Nat.succ_mul]
  exact Nat.mul_le_mul_right w hi

/-- A block of `n` elements of `w` bits is given by its elements. -/
theorem block_eq_iff_elements {V W w n p q : Nat} {a : BitVec V} {b : BitVec W} (hw : 0 < w) :
    a.extractLsb' p (n * w) = b.extractLsb' q (n * w) ↔
      ∀ i < n, a.extractLsb' (p + i * w) w = b.extractLsb' (q + i * w) w := by
  constructor
  · intro h i hi
    rw [← extractLsb'_extractLsb'_within (element_end_le w hi), h,
      extractLsb'_extractLsb'_within (element_end_le w hi)]
  · intro h
    apply BitVec.eq_of_getLsbD_eq
    intro k hk
    have hbit := congrArg (fun x => x.getLsbD (k % w)) (h (k / w) (Nat.div_lt_of_lt_mul (by rwa [Nat.mul_comm])))
    simpa [hk, Nat.mod_lt k hw, Nat.add_assoc, Nat.div_add_mod'] using hbit

/-- What holds at every even and every odd position holds at every position. -/
theorem forall_lt_mul_two_iff {n : Nat} {P : Nat → Prop} :
    (∀ k < n * 2, P k) ↔ ∀ i < n, P (2 * i) ∧ P (2 * i + 1) := by
  constructor
  · exact fun h i hi => ⟨h _ (by omega), h _ (by omega)⟩
  · intro h k hk
    obtain ⟨heven, hodd⟩ := h (k / 2) (by omega)
    rcases Nat.mod_two_eq_zero_or_one k with hk2 | hk2
    · rwa [show k = 2 * (k / 2) by omega]
    · rwa [show k = 2 * (k / 2) + 1 by omega]

/-- A 256-bit value is given by its two lanes. -/
theorem eq_of_lanes {a b : BitVec 256} (hlow : a.extractLsb' 0 128 = b.extractLsb' 0 128)
    (hhigh : a.extractLsb' 128 128 = b.extractLsb' 128 128) : a = b :=
  calc a = a.extractLsb' 128 128 ++ a.extractLsb' 0 128 :=
        (BitVec.extractLsb'_append_extractLsb' (w := 128) (len := 128)).symm
    _ = b.extractLsb' 128 128 ++ b.extractLsb' 0 128 := by rw [hlow, hhigh]
    _ = b := BitVec.extractLsb'_append_extractLsb' (w := 128) (len := 128)

/-! ### What `Interleaves` gives -/

section
variable {V W w n lo src lo' src' : Nat} {d s1 s2 : BitVec W} {d' u1 u2 : BitVec V}

/-- The result of one lane and the low halves of its two sources determine each other (R115, R116). -/
theorem Interleaves.block_eq_iff (h : Interleaves w n lo src d s1 s2) (h' : Interleaves w n lo' src' d' u1 u2)
    (hw : 0 < w) :
    d.extractLsb' lo (n * 2 * w) = d'.extractLsb' lo' (n * 2 * w) ↔
      s1.extractLsb' src (n * w) = u1.extractLsb' src' (n * w) ∧
        s2.extractLsb' src (n * w) = u2.extractLsb' src' (n * w) := by
  rw [block_eq_iff_elements hw, block_eq_iff_elements hw, block_eq_iff_elements hw, forall_lt_mul_two_iff,
    ← forall₂_and]
  refine forall₂_congr fun i hi => ?_
  obtain ⟨heven, hodd⟩ := h i hi
  obtain ⟨heven', hodd'⟩ := h' i hi
  rw [heven, hodd, heven', hodd']

/-- Pair `i` of the result is element `i` of the second source above element `i` of the first. -/
theorem Interleaves.pair (h : Interleaves w n lo src d s1 s2) {i : Nat} (hi : i < n) :
    d.extractLsb' (lo + (w + w) * i) (w + w) = s2.extractLsb' (src + w * i) w ++ s1.extractLsb' (src + w * i) w := by
  obtain ⟨heven, hodd⟩ := h i hi
  rw [Nat.mul_comm w i, ← heven, ← hodd,
    BitVec.extractLsb'_append_extractLsb'_eq_extractLsb' (show lo + (2 * i + 1) * w = lo + 2 * i * w + w by ring)]
  congr 1
  ring

/-- Where the second source is 0, the pair is the element of the first, zero-extended (R113). -/
theorem Interleaves.pair_of_zero (h : Interleaves w n lo src d s1 s2) (hz : s2.extractLsb' src (n * w) = 0)
    {i : Nat} (hi : i < n) :
    d.extractLsb' (lo + (w + w) * i) (w + w) = (s1.extractLsb' (src + w * i) w).setWidth (w + w) := by
  have helem : s2.extractLsb' (src + w * i) w = 0#w := by
    rw [Nat.mul_comm, ← extractLsb'_extractLsb'_within (element_end_le w hi), hz]
    exact BitVec.extractLsb'_zero
  rw [h.pair hi, helem, BitVec.setWidth_eq_append (Nat.le_add_left w w)]
  apply BitVec.eq_of_toNat_eq
  simp

/-- A result of one lane is the low halves of its sources, and no more (R115, R116). -/
theorem Interleaves.eq_iff {d s1 s2 d' u1 u2 : BitVec (n * 2 * w)} (h : Interleaves w n 0 0 d s1 s2)
    (h' : Interleaves w n 0 0 d' u1 u2) (hw : 0 < w) :
    d = d' ↔ s1.extractLsb' 0 (n * w) = u1.extractLsb' 0 (n * w) ∧
      s2.extractLsb' 0 (n * w) = u2.extractLsb' 0 (n * w) := by
  rw [← h.block_eq_iff h' hw, BitVec.extractLsb'_eq_self, BitVec.extractLsb'_eq_self]

/-- A lane of a result is what the same lanes of the sources give (R112). -/
theorem Interleaves.lane_eq {dl : BitVec (n * 2 * w)} (h : Interleaves w n lo lo d s1 s2)
    (hl : Interleaves w n 0 0 dl (s1.extractLsb' lo (n * 2 * w)) (s2.extractLsb' lo (n * 2 * w))) (hw : 0 < w) :
    d.extractLsb' lo (n * 2 * w) = dl := by
  have hle : 0 + n * w ≤ n * 2 * w := by rw [Nat.zero_add]; exact Nat.mul_le_mul_right w (by omega)
  have hblock := (h.block_eq_iff hl hw).2
    ⟨(extractLsb'_extractLsb'_within hle).symm, (extractLsb'_extractLsb'_within hle).symm⟩
  rwa [BitVec.extractLsb'_eq_self] at hblock

/-- A result of two lanes is the low halves of both lanes of its sources, and no more (R115, R116). -/
theorem Interleaves.eq_iff_of_lanes {d s1 s2 d' u1 u2 : BitVec 256} (hlow : Interleaves w n 0 0 d s1 s2)
    (hhigh : Interleaves w n 128 128 d s1 s2) (hlow' : Interleaves w n 0 0 d' u1 u2)
    (hhigh' : Interleaves w n 128 128 d' u1 u2) (hn : n * w = 64) :
    d = d' ↔ s1.extractLsb' 0 64 = u1.extractLsb' 0 64 ∧ s1.extractLsb' 128 64 = u1.extractLsb' 128 64 ∧
      s2.extractLsb' 0 64 = u2.extractLsb' 0 64 ∧ s2.extractLsb' 128 64 = u2.extractLsb' 128 64 := by
  have hw : 0 < w := Nat.pos_of_ne_zero (by rintro rfl; omega)
  have hlane : n * 2 * w = 128 := by rw [Nat.mul_right_comm, hn]
  have hlow := hlow.block_eq_iff hlow' hw
  have hhigh := hhigh.block_eq_iff hhigh' hw
  rw [hlane, hn] at hlow hhigh
  constructor
  · rintro rfl
    obtain ⟨h1, h2⟩ := hlow.1 rfl
    obtain ⟨h3, h4⟩ := hhigh.1 rfl
    exact ⟨h1, h3, h2, h4⟩
  · rintro ⟨h1, h3, h2, h4⟩
    exact eq_of_lanes (hlow.2 ⟨h1, h2⟩) (hhigh.2 ⟨h3, h4⟩)

end

/-! ### The general law (R100) -/

/-- Element `e` of lane `l` of the law: from the first source where `e` is even, from the second where it is odd. -/
theorem extractLsb'_interleaveLow {W w n l e : Nat} (s1 s2 : BitVec W) (hl : 2 * (n * w) * (l + 1) ≤ W)
    (he : e < 2 * n) :
    (interleaveLow w (2 * (n * w)) s1 s2).extractLsb' (2 * (n * w) * l + e * w) w =
      (if e % 2 = 0 then s1 else s2).extractLsb' (2 * (n * w) * l + e / 2 * w) w := by
  apply BitVec.eq_of_getLsbD_eq
  intro r hr
  have hin : e * w + r < 2 * (n * w) :=
    calc e * w + r < e * w + w := by omega
      _ = (e + 1) * w := by ring
      _ ≤ 2 * n * w := Nat.mul_le_mul_right w he
      _ = 2 * (n * w) := by ring
  have hlane : (2 * (n * w) * l + (e * w + r)) / (2 * (n * w)) = l := by
    rw [Nat.mul_add_div (by omega), Nat.div_eq_of_lt hin, Nat.add_zero]
  have hoff : (2 * (n * w) * l + (e * w + r)) % (2 * (n * w)) = e * w + r := by
    rw [Nat.mul_add_mod, Nat.mod_eq_of_lt hin]
  have helem : (e * w + r) / w = e := by
    rw [Nat.mul_comm, Nat.mul_add_div (by omega), Nat.div_eq_of_lt hr, Nat.add_zero]
  have hbit : (2 * (n * w) * l + (e * w + r)) % w = r := by
    rw [show 2 * (n * w) * l + (e * w + r) = w * (2 * n * l + e) + r by ring, Nat.mul_add_mod, Nat.mod_eq_of_lt hr]
  have hlt : 2 * (n * w) * l + (e * w + r) < W := by rw [Nat.mul_succ] at hl; omega
  simp only [BitVec.getLsbD_extractLsb', hr, Nat.add_assoc, interleaveLow, BitVec.getLsbD_ofFnLE, hlt, hlane, hoff,
    helem, hbit, decide_true, Bool.true_and, dite_true]

theorem interleaveLow_interleaves {W w n l : Nat} (s1 s2 : BitVec W) (hl : 2 * (n * w) * (l + 1) ≤ W) :
    Interleaves w n (2 * (n * w) * l) (2 * (n * w) * l) (interleaveLow w (2 * (n * w)) s1 s2) s1 s2 := by
  intro i hi
  have heven := extractLsb'_interleaveLow (e := 2 * i) s1 s2 hl (by omega)
  have hodd := extractLsb'_interleaveLow (e := 2 * i + 1) s1 s2 hl (by omega)
  rw [if_pos (by omega), show 2 * i / 2 = i by omega] at heven
  rw [if_neg (by omega), show (2 * i + 1) / 2 = i by omega] at hodd
  exact ⟨heven, hodd⟩

/-- Settles O4: a lane below the number of lanes lies within the sources. -/
theorem interleaveLawPlacesElements : Obligations.InterleaveLawPlacesElements := by
  intro w n lanes s1 s2 _ l hl
  refine interleaveLow_interleaves s1 s2 ?_
  rw [Nat.mul_comm lanes]
  exact Nat.mul_le_mul_left _ hl

/-- A result of one lane is the law's. -/
theorem Interleaves.eq_interleaveLow {w n : Nat} {d s1 s2 : BitVec (n * 2 * w)} (h : Interleaves w n 0 0 d s1 s2)
    (hw : 0 < w) : d = interleaveLow w (2 * (n * w)) s1 s2 := by
  have hlaw := interleaveLow_interleaves (w := w) (n := n) (l := 0) s1 s2 (Nat.le_of_eq (by ring))
  exact (h.eq_iff hlaw hw).2 ⟨rfl, rfl⟩

/-- A result of two lanes is the law's. -/
theorem Interleaves.eq_interleaveLow_of_lanes {w n : Nat} {d s1 s2 : BitVec 256} (hlow : Interleaves w n 0 0 d s1 s2)
    (hhigh : Interleaves w n 128 128 d s1 s2) (hn : n * w = 64) : d = interleaveLow w 128 s1 s2 := by
  have hlaw := fun l => interleaveLow_interleaves (w := w) (n := n) (l := l) s1 s2
  rw [hn] at hlaw
  exact (hlow.eq_iff_of_lanes hhigh (hlaw 0 (by decide)) (hlaw 1 (by decide)) hn).2 ⟨rfl, rfl, rfl, rfl⟩

/-! ### Reading a table pair by pair -/

/-- `Interleaves` for a value of any width, so that it can speak of the upper part of a table. -/
def PairsFrom {V W : Nat} (w n lo src : Nat) (d : BitVec V) (s1 s2 : BitVec W) : Prop :=
  ∀ i < n, d.extractLsb' (lo + 2 * i * w) w = s1.extractLsb' (src + i * w) w ∧
    d.extractLsb' (lo + (2 * i + 1) * w) w = s2.extractLsb' (src + i * w) w

theorem interleaves_iff_pairsFrom {W w n lo src : Nat} {d s1 s2 : BitVec W} :
    Interleaves w n lo src d s1 s2 ↔ PairsFrom w n lo src d s1 s2 := Iff.rfl

section
variable {U V W w n lo src : Nat} {x : BitVec V} {s1 s2 : BitVec W}

/-- No pair: where the reading of a lane stops. -/
theorem PairsFrom.none : PairsFrom w 0 lo src x s1 s2 := fun _ hi => absurd hi (Nat.not_lt_zero _)

/-- The uppermost pair of a table. -/
theorem PairsFrom.top : PairsFrom w 1 0 src (s2.extractLsb' src w ++ s1.extractLsb' src w) s1 s2 := by
  intro i hi
  obtain rfl : i = 0 := by omega
  simp [BitVec.extractLsb'_append_eq_of_le, BitVec.extractLsb'_append_eq_of_add_le]

/-- One more pair below the rest of its lane. -/
theorem PairsFrom.below (h : PairsFrom w n 0 (src + w) x s1 s2) :
    PairsFrom w (n + 1) 0 src (x ++ s2.extractLsb' src w ++ s1.extractLsb' src w) s1 s2 := by
  intro i hi
  cases i with
  | zero =>
    constructor
    · simp [BitVec.extractLsb'_append_eq_of_add_le]
    · simp [BitVec.extractLsb'_append_eq_of_le, BitVec.extractLsb'_append_eq_of_add_le]
  | succ i =>
    obtain ⟨heven, hodd⟩ := h i (by omega)
    have hskip : ∀ k, (x ++ s2.extractLsb' src w ++ s1.extractLsb' src w).extractLsb' (w + w + k) w =
        x.extractLsb' k w := fun k => by
      rw [BitVec.extractLsb'_append_eq_of_le (by omega), BitVec.extractLsb'_append_eq_of_le (by omega)]
      congr 1
      omega
    rw [show 0 + 2 * (i + 1) * w = w + w + (0 + 2 * i * w) by ring,
      show 0 + (2 * (i + 1) + 1) * w = w + w + (0 + (2 * i + 1) * w) by ring, hskip, hskip,
      show src + (i + 1) * w = src + w + i * w by ring]
    exact ⟨heven, hodd⟩

/-- What stands below a lane moves it up. -/
theorem PairsFrom.above (h : PairsFrom w n lo src x s1 s2) {y : BitVec U} :
    PairsFrom w n (lo + U) src (x ++ y) s1 s2 := by
  intro i hi
  obtain ⟨heven, hodd⟩ := h i hi
  have hskip : ∀ k, (x ++ y).extractLsb' (lo + U + k) w = x.extractLsb' (lo + k) w := fun k => by
    rw [BitVec.extractLsb'_append_eq_of_le (by omega)]
    congr 1
    omega
  rw [hskip, hskip]
  exact ⟨heven, hodd⟩

theorem PairsFrom.above_pair (h : PairsFrom w n lo src x s1 s2) {y z : BitVec U} :
    PairsFrom w n (lo + U + U) src (x ++ y ++ z) s1 s2 := h.above.above

end

/-! ### The tables (R101 to R111) -/

theorem interleaveBytes64_interleaves (s1 s2 : BitVec 64) : Interleaves 8 4 0 0 (interleaveBytes64 s1 s2) s1 s2 :=
  interleaves_iff_pairsFrom.2 PairsFrom.top.below.below.below

theorem interleaveWords64_interleaves (s1 s2 : BitVec 64) : Interleaves 16 2 0 0 (interleaveWords64 s1 s2) s1 s2 :=
  interleaves_iff_pairsFrom.2 PairsFrom.top.below

theorem interleaveDwords64_interleaves (s1 s2 : BitVec 64) : Interleaves 32 1 0 0 (interleaveDwords64 s1 s2) s1 s2 :=
  interleaves_iff_pairsFrom.2 PairsFrom.top

theorem interleaveBytes_interleaves (s1 s2 : BitVec 128) : Interleaves 8 8 0 0 (interleaveBytes s1 s2) s1 s2 :=
  interleaves_iff_pairsFrom.2 PairsFrom.top.below.below.below.below.below.below.below

theorem interleaveWords_interleaves (s1 s2 : BitVec 128) : Interleaves 16 4 0 0 (interleaveWords s1 s2) s1 s2 :=
  interleaves_iff_pairsFrom.2 PairsFrom.top.below.below.below

theorem interleaveDwords_interleaves (s1 s2 : BitVec 128) : Interleaves 32 2 0 0 (interleaveDwords s1 s2) s1 s2 :=
  interleaves_iff_pairsFrom.2 PairsFrom.top.below

theorem interleaveQwords_interleaves (s1 s2 : BitVec 128) : Interleaves 64 1 0 0 (interleaveQwords s1 s2) s1 s2 :=
  interleaves_iff_pairsFrom.2 PairsFrom.top

theorem interleaveBytes256_interleaves_low (s1 s2 : BitVec 256) :
    Interleaves 8 8 0 0 (interleaveBytes256 s1 s2) s1 s2 :=
  interleaves_iff_pairsFrom.2 PairsFrom.none.below.below.below.below.below.below.below.below

theorem interleaveBytes256_interleaves_high (s1 s2 : BitVec 256) :
    Interleaves 8 8 128 128 (interleaveBytes256 s1 s2) s1 s2 :=
  interleaves_iff_pairsFrom.2 <|
    PairsFrom.top.below.below.below.below.below.below.below.above_pair.above_pair
      |>.above_pair.above_pair.above_pair.above_pair.above_pair.above_pair

theorem interleaveWords256_interleaves_low (s1 s2 : BitVec 256) :
    Interleaves 16 4 0 0 (interleaveWords256 s1 s2) s1 s2 :=
  interleaves_iff_pairsFrom.2 PairsFrom.none.below.below.below.below

theorem interleaveWords256_interleaves_high (s1 s2 : BitVec 256) :
    Interleaves 16 4 128 128 (interleaveWords256 s1 s2) s1 s2 :=
  interleaves_iff_pairsFrom.2 PairsFrom.top.below.below.below.above_pair.above_pair.above_pair.above_pair

theorem interleaveDwords256_interleaves_low (s1 s2 : BitVec 256) :
    Interleaves 32 2 0 0 (interleaveDwords256 s1 s2) s1 s2 :=
  interleaves_iff_pairsFrom.2 PairsFrom.none.below.below

theorem interleaveDwords256_interleaves_high (s1 s2 : BitVec 256) :
    Interleaves 32 2 128 128 (interleaveDwords256 s1 s2) s1 s2 :=
  interleaves_iff_pairsFrom.2 PairsFrom.top.below.above_pair.above_pair

theorem interleaveQwords256_interleaves_low (s1 s2 : BitVec 256) :
    Interleaves 64 1 0 0 (interleaveQwords256 s1 s2) s1 s2 :=
  interleaves_iff_pairsFrom.2 PairsFrom.none.below

theorem interleaveQwords256_interleaves_high (s1 s2 : BitVec 256) :
    Interleaves 64 1 128 128 (interleaveQwords256 s1 s2) s1 s2 :=
  interleaves_iff_pairsFrom.2 PairsFrom.top.above_pair

/-! ### When two results are equal (R115, R116) -/

theorem interleaveBytes64_eq_iff (s1 s2 u1 u2 : BitVec 64) : interleaveBytes64 s1 s2 = interleaveBytes64 u1 u2 ↔
    s1.extractLsb' 0 32 = u1.extractLsb' 0 32 ∧ s2.extractLsb' 0 32 = u2.extractLsb' 0 32 :=
  (interleaveBytes64_interleaves s1 s2).eq_iff (interleaveBytes64_interleaves u1 u2) (by decide)

theorem interleaveWords64_eq_iff (s1 s2 u1 u2 : BitVec 64) : interleaveWords64 s1 s2 = interleaveWords64 u1 u2 ↔
    s1.extractLsb' 0 32 = u1.extractLsb' 0 32 ∧ s2.extractLsb' 0 32 = u2.extractLsb' 0 32 :=
  (interleaveWords64_interleaves s1 s2).eq_iff (interleaveWords64_interleaves u1 u2) (by decide)

theorem interleaveDwords64_eq_iff (s1 s2 u1 u2 : BitVec 64) : interleaveDwords64 s1 s2 = interleaveDwords64 u1 u2 ↔
    s1.extractLsb' 0 32 = u1.extractLsb' 0 32 ∧ s2.extractLsb' 0 32 = u2.extractLsb' 0 32 :=
  (interleaveDwords64_interleaves s1 s2).eq_iff (interleaveDwords64_interleaves u1 u2) (by decide)

theorem interleaveBytes_eq_iff (s1 s2 u1 u2 : BitVec 128) : interleaveBytes s1 s2 = interleaveBytes u1 u2 ↔
    s1.extractLsb' 0 64 = u1.extractLsb' 0 64 ∧ s2.extractLsb' 0 64 = u2.extractLsb' 0 64 :=
  (interleaveBytes_interleaves s1 s2).eq_iff (interleaveBytes_interleaves u1 u2) (by decide)

theorem interleaveWords_eq_iff (s1 s2 u1 u2 : BitVec 128) : interleaveWords s1 s2 = interleaveWords u1 u2 ↔
    s1.extractLsb' 0 64 = u1.extractLsb' 0 64 ∧ s2.extractLsb' 0 64 = u2.extractLsb' 0 64 :=
  (interleaveWords_interleaves s1 s2).eq_iff (interleaveWords_interleaves u1 u2) (by decide)

theorem interleaveDwords_eq_iff (s1 s2 u1 u2 : BitVec 128) : interleaveDwords s1 s2 = interleaveDwords u1 u2 ↔
    s1.extractLsb' 0 64 = u1.extractLsb' 0 64 ∧ s2.extractLsb' 0 64 = u2.extractLsb' 0 64 :=
  (interleaveDwords_interleaves s1 s2).eq_iff (interleaveDwords_interleaves u1 u2) (by decide)

theorem interleaveQwords_eq_iff (s1 s2 u1 u2 : BitVec 128) : interleaveQwords s1 s2 = interleaveQwords u1 u2 ↔
    s1.extractLsb' 0 64 = u1.extractLsb' 0 64 ∧ s2.extractLsb' 0 64 = u2.extractLsb' 0 64 :=
  (interleaveQwords_interleaves s1 s2).eq_iff (interleaveQwords_interleaves u1 u2) (by decide)

theorem interleaveBytes256_eq_iff (s1 s2 u1 u2 : BitVec 256) :
    interleaveBytes256 s1 s2 = interleaveBytes256 u1 u2 ↔
      s1.extractLsb' 0 64 = u1.extractLsb' 0 64 ∧ s1.extractLsb' 128 64 = u1.extractLsb' 128 64 ∧
      s2.extractLsb' 0 64 = u2.extractLsb' 0 64 ∧ s2.extractLsb' 128 64 = u2.extractLsb' 128 64 :=
  (interleaveBytes256_interleaves_low s1 s2).eq_iff_of_lanes (interleaveBytes256_interleaves_high s1 s2)
    (interleaveBytes256_interleaves_low u1 u2) (interleaveBytes256_interleaves_high u1 u2) rfl

theorem interleaveWords256_eq_iff (s1 s2 u1 u2 : BitVec 256) :
    interleaveWords256 s1 s2 = interleaveWords256 u1 u2 ↔
      s1.extractLsb' 0 64 = u1.extractLsb' 0 64 ∧ s1.extractLsb' 128 64 = u1.extractLsb' 128 64 ∧
      s2.extractLsb' 0 64 = u2.extractLsb' 0 64 ∧ s2.extractLsb' 128 64 = u2.extractLsb' 128 64 :=
  (interleaveWords256_interleaves_low s1 s2).eq_iff_of_lanes (interleaveWords256_interleaves_high s1 s2)
    (interleaveWords256_interleaves_low u1 u2) (interleaveWords256_interleaves_high u1 u2) rfl

theorem interleaveDwords256_eq_iff (s1 s2 u1 u2 : BitVec 256) :
    interleaveDwords256 s1 s2 = interleaveDwords256 u1 u2 ↔
      s1.extractLsb' 0 64 = u1.extractLsb' 0 64 ∧ s1.extractLsb' 128 64 = u1.extractLsb' 128 64 ∧
      s2.extractLsb' 0 64 = u2.extractLsb' 0 64 ∧ s2.extractLsb' 128 64 = u2.extractLsb' 128 64 :=
  (interleaveDwords256_interleaves_low s1 s2).eq_iff_of_lanes (interleaveDwords256_interleaves_high s1 s2)
    (interleaveDwords256_interleaves_low u1 u2) (interleaveDwords256_interleaves_high u1 u2) rfl

theorem interleaveQwords256_eq_iff (s1 s2 u1 u2 : BitVec 256) :
    interleaveQwords256 s1 s2 = interleaveQwords256 u1 u2 ↔
      s1.extractLsb' 0 64 = u1.extractLsb' 0 64 ∧ s1.extractLsb' 128 64 = u1.extractLsb' 128 64 ∧
      s2.extractLsb' 0 64 = u2.extractLsb' 0 64 ∧ s2.extractLsb' 128 64 = u2.extractLsb' 128 64 :=
  (interleaveQwords256_interleaves_low s1 s2).eq_iff_of_lanes (interleaveQwords256_interleaves_high s1 s2)
    (interleaveQwords256_interleaves_low u1 u2) (interleaveQwords256_interleaves_high u1 u2) rfl

/-! ### The statements -/

/-- Settles O1. -/
theorem interleave64TablesHold : Obligations.Interleave64TablesHold := by
  intro s1 s2
  have hb := interleaveBytes64_interleaves s1 s2
  have hw := interleaveWords64_interleaves s1 s2
  have hd := interleaveDwords64_interleaves s1 s2
  exact ⟨hb, hb.eq_interleaveLow (by decide), hw, hw.eq_interleaveLow (by decide),
    hd, hd.eq_interleaveLow (by decide)⟩

/-- Settles O2. -/
theorem interleave128TablesHold : Obligations.Interleave128TablesHold := by
  intro s1 s2
  have hb := interleaveBytes_interleaves s1 s2
  have hw := interleaveWords_interleaves s1 s2
  have hd := interleaveDwords_interleaves s1 s2
  have hq := interleaveQwords_interleaves s1 s2
  exact ⟨hb, hb.eq_interleaveLow (by decide), hw, hw.eq_interleaveLow (by decide),
    hd, hd.eq_interleaveLow (by decide), hq, hq.eq_interleaveLow (by decide)⟩

/-- Settles O3: the two lanes of a table, and both together are the law. -/
theorem interleave256TablesHold : Obligations.Interleave256TablesHold := by
  intro s1 s2
  have hb := interleaveBytes256_interleaves_low s1 s2
  have hb' := interleaveBytes256_interleaves_high s1 s2
  have hw := interleaveWords256_interleaves_low s1 s2
  have hw' := interleaveWords256_interleaves_high s1 s2
  have hd := interleaveDwords256_interleaves_low s1 s2
  have hd' := interleaveDwords256_interleaves_high s1 s2
  have hq := interleaveQwords256_interleaves_low s1 s2
  have hq' := interleaveQwords256_interleaves_high s1 s2
  exact ⟨hb, hb', hb.eq_interleaveLow_of_lanes hb' rfl, hw, hw', hw.eq_interleaveLow_of_lanes hw' rfl,
    hd, hd', hd.eq_interleaveLow_of_lanes hd' rfl, hq, hq', hq.eq_interleaveLow_of_lanes hq' rfl⟩

/-- Settles O5: both sides interleave the same two half lanes. -/
theorem lanesAreIndependent : Obligations.LanesAreIndependent := by
  intro s1 s2
  exact ⟨(interleaveBytes256_interleaves_low s1 s2).lane_eq (interleaveBytes_interleaves _ _) (by decide),
    (interleaveBytes256_interleaves_high s1 s2).lane_eq (interleaveBytes_interleaves _ _) (by decide),
    (interleaveWords256_interleaves_low s1 s2).lane_eq (interleaveWords_interleaves _ _) (by decide),
    (interleaveWords256_interleaves_high s1 s2).lane_eq (interleaveWords_interleaves _ _) (by decide),
    (interleaveDwords256_interleaves_low s1 s2).lane_eq (interleaveDwords_interleaves _ _) (by decide),
    (interleaveDwords256_interleaves_high s1 s2).lane_eq (interleaveDwords_interleaves _ _) (by decide),
    (interleaveQwords256_interleaves_low s1 s2).lane_eq (interleaveQwords_interleaves _ _) (by decide),
    (interleaveQwords256_interleaves_high s1 s2).lane_eq (interleaveQwords_interleaves _ _) (by decide)⟩

/-- Settles O6: the upper element of every pair is an element of the zero block. -/
theorem zeroSourceZeroExtends : Obligations.ZeroSourceZeroExtends := by
  refine ⟨?bytes64, ?words64, ?dwords64, ?bytes, ?words, ?dwords, ?qwords, ?bytes256, ?words256,
    ?dwords256, ?qwords256⟩
  case bytes64 => exact fun s1 s2 hz i hi => (interleaveBytes64_interleaves s1 s2).pair_of_zero hz hi
  case words64 => exact fun s1 s2 hz i hi => (interleaveWords64_interleaves s1 s2).pair_of_zero hz hi
  case dwords64 => exact fun s1 s2 hz i hi => (interleaveDwords64_interleaves s1 s2).pair_of_zero hz hi
  case bytes => exact fun s1 s2 hz i hi => (interleaveBytes_interleaves s1 s2).pair_of_zero hz hi
  case words => exact fun s1 s2 hz i hi => (interleaveWords_interleaves s1 s2).pair_of_zero hz hi
  case dwords => exact fun s1 s2 hz i hi => (interleaveDwords_interleaves s1 s2).pair_of_zero hz hi
  case qwords => exact fun s1 s2 hz i hi => (interleaveQwords_interleaves s1 s2).pair_of_zero hz hi
  case bytes256 =>
    exact fun s1 s2 hz hz' => ⟨fun i hi => (interleaveBytes256_interleaves_low s1 s2).pair_of_zero hz hi,
      fun i hi => (interleaveBytes256_interleaves_high s1 s2).pair_of_zero hz' hi⟩
  case words256 =>
    exact fun s1 s2 hz hz' => ⟨fun i hi => (interleaveWords256_interleaves_low s1 s2).pair_of_zero hz hi,
      fun i hi => (interleaveWords256_interleaves_high s1 s2).pair_of_zero hz' hi⟩
  case dwords256 =>
    exact fun s1 s2 hz hz' => ⟨fun i hi => (interleaveDwords256_interleaves_low s1 s2).pair_of_zero hz hi,
      fun i hi => (interleaveDwords256_interleaves_high s1 s2).pair_of_zero hz' hi⟩
  case qwords256 =>
    exact fun s1 s2 hz hz' => ⟨fun i hi => (interleaveQwords256_interleaves_low s1 s2).pair_of_zero hz hi,
      fun i hi => (interleaveQwords256_interleaves_high s1 s2).pair_of_zero hz' hi⟩

/-- Settles O7: a pair holds the same element of each source. -/
theorem sameSourceDoublesElements : Obligations.SameSourceDoublesElements := by
  refine ⟨?bytes64, ?words64, ?dwords64, ?bytes, ?words, ?dwords, ?qwords, ?bytes256, ?words256,
    ?dwords256, ?qwords256⟩
  case bytes64 => exact fun s i hi => (interleaveBytes64_interleaves s s).pair hi
  case words64 => exact fun s i hi => (interleaveWords64_interleaves s s).pair hi
  case dwords64 => exact fun s i hi => (interleaveDwords64_interleaves s s).pair hi
  case bytes => exact fun s i hi => (interleaveBytes_interleaves s s).pair hi
  case words => exact fun s i hi => (interleaveWords_interleaves s s).pair hi
  case dwords => exact fun s i hi => (interleaveDwords_interleaves s s).pair hi
  case qwords => exact fun s i hi => (interleaveQwords_interleaves s s).pair hi
  case bytes256 =>
    exact fun s i hi =>
      ⟨(interleaveBytes256_interleaves_low s s).pair hi, (interleaveBytes256_interleaves_high s s).pair hi⟩
  case words256 =>
    exact fun s i hi =>
      ⟨(interleaveWords256_interleaves_low s s).pair hi, (interleaveWords256_interleaves_high s s).pair hi⟩
  case dwords256 =>
    exact fun s i hi =>
      ⟨(interleaveDwords256_interleaves_low s s).pair hi, (interleaveDwords256_interleaves_high s s).pair hi⟩
  case qwords256 =>
    exact fun s i hi =>
      ⟨(interleaveQwords256_interleaves_low s s).pair hi, (interleaveQwords256_interleaves_high s s).pair hi⟩

/-- Settles O8: equal low halves give equal results. -/
theorem highHalvesAreIgnored : Obligations.HighHalvesAreIgnored := by
  refine ⟨fun s1 s2 u1 u2 h1 h2 => ?mmx, fun s1 s2 u1 u2 h1 h2 => ?xmm, fun s1 s2 u1 u2 h1 h1' h2 h2' => ?ymm⟩
  case mmx =>
    exact ⟨(interleaveBytes64_eq_iff s1 s2 u1 u2).2 ⟨h1, h2⟩,
      (interleaveWords64_eq_iff s1 s2 u1 u2).2 ⟨h1, h2⟩, (interleaveDwords64_eq_iff s1 s2 u1 u2).2 ⟨h1, h2⟩⟩
  case xmm =>
    exact ⟨interleaveBytes_readsLowHalves s1 s2 u1 u2 h1 h2, interleaveWords_readsLowHalves s1 s2 u1 u2 h1 h2,
      interleaveDwords_readsLowHalves s1 s2 u1 u2 h1 h2, interleaveQwords_readsLowHalves s1 s2 u1 u2 h1 h2⟩
  case ymm =>
    have hlow := And.intro h1 (And.intro h1' (And.intro h2 h2'))
    exact ⟨(interleaveBytes256_eq_iff s1 s2 u1 u2).2 hlow, (interleaveWords256_eq_iff s1 s2 u1 u2).2 hlow,
      (interleaveDwords256_eq_iff s1 s2 u1 u2).2 hlow, (interleaveQwords256_eq_iff s1 s2 u1 u2).2 hlow⟩

/-- Settles O9: equal results give equal low halves. -/
theorem lowHalvesAreRecoverable : Obligations.LowHalvesAreRecoverable :=
  ⟨fun s1 s2 u1 u2 => (interleaveBytes64_eq_iff s1 s2 u1 u2).1,
    fun s1 s2 u1 u2 => (interleaveWords64_eq_iff s1 s2 u1 u2).1,
    fun s1 s2 u1 u2 => (interleaveDwords64_eq_iff s1 s2 u1 u2).1,
    fun s1 s2 u1 u2 => (interleaveBytes_eq_iff s1 s2 u1 u2).1,
    fun s1 s2 u1 u2 => (interleaveWords_eq_iff s1 s2 u1 u2).1,
    fun s1 s2 u1 u2 => (interleaveDwords_eq_iff s1 s2 u1 u2).1,
    fun s1 s2 u1 u2 => (interleaveQwords_eq_iff s1 s2 u1 u2).1,
    fun s1 s2 u1 u2 => (interleaveBytes256_eq_iff s1 s2 u1 u2).1,
    fun s1 s2 u1 u2 => (interleaveWords256_eq_iff s1 s2 u1 u2).1,
    fun s1 s2 u1 u2 => (interleaveDwords256_eq_iff s1 s2 u1 u2).1,
    fun s1 s2 u1 u2 => (interleaveQwords256_eq_iff s1 s2 u1 u2).1⟩

end Sys2Proof.Machine

/-! ## The results of the MMX forms (spec/41_mmx_forms.md R120 to R123)

An enabled MMX form with a readable source passes every check of R120, so its common execution leaves
`State.mmxResult`; the three forms differ in their interleave function alone. -/

namespace Sys2Proof.Machine

theorem mmx_checks_of_enabledMmx {s : State} {e : Enc} (hlock : e.lock = false) (h : s.enabledMmx = true) :
    s.mmxUd e = false ∧ s.ts = false ∧ s.x87Pending = false := by
  simp only [State.enabledMmx, Bool.and_eq_true, Bool.not_eq_true'] at h
  obtain ⟨⟨⟨hmmx, hem⟩, hts⟩, hpending⟩ := h
  exact ⟨by simp [State.mmxUd, hlock, hmmx, hem], hts, hpending⟩

theorem readMm_mmxResult_same (s : State) (e : Enc) (d : Fin 8) (v : BitVec 64) :
    (s.mmxResult e d v).readMm d = v := by
  rw [State.mmxResult, readMm_advance, readMm_x87SideEffects, readMm_writeMm_same]

/-- Every field that R120 writes, in one update. -/
theorem mmxResult_eq (s : State) (e : Enc) (d : Fin 8) (v : BitVec 64) :
    s.mmxResult e d v = { s with
      mm := s.mm.set d v
      x87Status := s.x87Status &&& 0xC7FF
      x87Tag := 0
      x87High := s.x87High.set d 0xFFFF
      x87Dirty := true
      rip := truncTo s.codeSize (s.rip + BitVec.ofNat 64 e.len) } := rfl

section
variable {e : Enc} {d : Fin 8} {src : RegMem 8} {s : State}

theorem mmxForm_of_enabledMmx (f : BitVec 64 → BitVec 64 → BitVec 64) (hlock : e.lock = false)
    (hen : s.enabledMmx = true) (hsrc : s.mmSrcOk e.len src = true) :
    mmxForm f e d src s = .next (s.mmxResult e d (f (s.readMm d) (s.mmValue e.len src))) := by
  obtain ⟨hud, hts, hpending⟩ := mmx_checks_of_enabledMmx hlock hen
  have hread := mmSource_ok s e.len src hsrc
  simpa [hud, hts, hpending, hread] using mmxForm_cases f e d src s

/-- The completion of an MMX form with its whole next state, for any function on the two sources (R120). -/
theorem mmxForm_completes (f : BitVec 64 → BitVec 64 → BitVec 64) (hlock : e.lock = false)
    (hen : s.enabledMmx = true) (hsrc : s.mmSrcOk e.len src = true) :
    ∃ t, mmxForm f e d src s = .next t ∧ t.readMm d = f (s.readMm d) (s.mmValue e.len src) ∧
      t = { s with
        mm := s.mm.set d (t.readMm d)
        x87Status := s.x87Status &&& 0xC7FF
        x87Tag := 0
        x87High := s.x87High.set d 0xFFFF
        x87Dirty := true
        rip := truncTo s.codeSize (s.rip + BitVec.ofNat 64 e.len) } := by
  refine ⟨_, mmxForm_of_enabledMmx f hlock hen hsrc, readMm_mmxResult_same s e d _, ?_⟩
  rw [readMm_mmxResult_same, mmxResult_eq]

end

/-- Settles O10: R120 with the function of R101. -/
theorem punpcklbwMmResult : Obligations.PunpcklbwMmResult := by
  intro e d src s hlock hen hsrc
  obtain ⟨t, hexec, hread, ht⟩ := mmxForm_completes (d := d) interleaveBytes64 hlock hen hsrc
  exact ⟨t, hexec, hread ▸ interleaveBytes64_interleaves _ _, ht⟩

/-- Settles O11: R120 with the function of R102. -/
theorem punpcklwdMmResult : Obligations.PunpcklwdMmResult := by
  intro e d src s hlock hen hsrc
  obtain ⟨t, hexec, hread, ht⟩ := mmxForm_completes (d := d) interleaveWords64 hlock hen hsrc
  exact ⟨t, hexec, hread ▸ interleaveWords64_interleaves _ _, ht⟩

/-- Settles O12: R120 with the function of R103. -/
theorem punpckldqMmResult : Obligations.PunpckldqMmResult := by
  intro e d src s hlock hen hsrc
  obtain ⟨t, hexec, hread, ht⟩ := mmxForm_completes (d := d) interleaveDwords64 hlock hen hsrc
  exact ⟨t, hexec, hread ▸ interleaveDwords64_interleaves _ _, ht⟩

end Sys2Proof.Machine

/-! ## The results of the legacy SSE2 forms (spec/42_sse_forms.md R130 to R134)

An enabled legacy SSE2 form with a readable source meets no fault of R172 and no stop of its read, so it leaves
`State.sseResult`. Under `FETCH64` it has read only the low 8 bytes of a memory operand (R46); the result is still that
of the whole operand, because an interleave function reads low halves alone (R115). -/

namespace Sys2Proof.Machine

/-- Every field that R130 writes, in one update. -/
theorem sseResult_eq (s : State) (e : Enc) (d : Fin 16) (v : BitVec 128) :
    s.sseResult e d v = { s with
      ymm := s.ymm.set d (s.readUpper d ++ v)
      rip := truncTo s.codeSize (s.rip + BitVec.ofNat 64 e.len) } := rfl

section
variable {i : Instr} {f : BitVec 128 → BitVec 128 → BitVec 128} {d : Fin 16} {src : RegMem 16} {s : State}

theorem exec_of_enabledSse (hi : i.shape = .sse d src) (hform : exec i s = sseForm f i.enc d src s)
    (hlow : ReadsLowHalves f) (hlock : i.enc.lock = false) (hen : s.enabledSse = true)
    (hsrc : s.vecSrcOk .sse i.enc.len 16 src = true) :
    exec i s = .next (s.sseResult i.enc d (f (s.readXmm d) (s.xmmValue i.enc.len src))) := by
  obtain ⟨v, hread, hv⟩ := xmmSource_ok s .sse i.enc.len src hsrc
  have hstops : ∀ x, ¬ s.sourceStops i x := fun x => by simp [sourceStops_sse hi, hread]
  obtain ⟨t, hnext⟩ := exec_of_not_sourceStops (earlyFault_of_enabledSse hi hlock hen) hstops
  obtain ⟨v', hread', rfl⟩ := sseForm_next (hform ▸ hnext)
  cases hread.symm.trans hread'
  rw [hnext, hlow _ _ _ _ rfl hv]

/-- The completion of a legacy SSE2 form with its whole next state, for any function of the low halves of the two
sources (R130). -/
theorem exec_sse_completes (hi : i.shape = .sse d src) (hform : exec i s = sseForm f i.enc d src s)
    (hlow : ReadsLowHalves f) (hlock : i.enc.lock = false) (hen : s.enabledSse = true)
    (hsrc : s.vecSrcOk .sse i.enc.len 16 src = true) :
    ∃ t, exec i s = .next t ∧ t.readXmm d = f (s.readXmm d) (s.xmmValue i.enc.len src) ∧
      t = { s with
        ymm := s.ymm.set d (s.readUpper d ++ t.readXmm d)
        rip := truncTo s.codeSize (s.rip + BitVec.ofNat 64 i.enc.len) } := by
  obtain ⟨hxmm, _⟩ := sseResult_halves s i.enc d (f (s.readXmm d) (s.xmmValue i.enc.len src))
  refine ⟨_, exec_of_enabledSse hi hform hlow hlock hen hsrc, hxmm, ?_⟩
  rw [hxmm, sseResult_eq]

end

/-- Settles O13: R130 with the function of R104. -/
theorem punpcklbwXmmResult : Obligations.PunpcklbwXmmResult := by
  intro e d src s hlock hen hsrc
  obtain ⟨t, hexec, hread, ht⟩ := exec_sse_completes (i := .punpcklbwXmm e d src) rfl rfl
    interleaveBytes_readsLowHalves hlock hen hsrc
  exact ⟨t, hexec, hread ▸ interleaveBytes_interleaves _ _, ht⟩

/-- Settles O14: R130 with the function of R105. -/
theorem punpcklwdXmmResult : Obligations.PunpcklwdXmmResult := by
  intro e d src s hlock hen hsrc
  obtain ⟨t, hexec, hread, ht⟩ := exec_sse_completes (i := .punpcklwdXmm e d src) rfl rfl
    interleaveWords_readsLowHalves hlock hen hsrc
  exact ⟨t, hexec, hread ▸ interleaveWords_interleaves _ _, ht⟩

/-- Settles O15: R130 with the function of R106. -/
theorem punpckldqXmmResult : Obligations.PunpckldqXmmResult := by
  intro e d src s hlock hen hsrc
  obtain ⟨t, hexec, hread, ht⟩ := exec_sse_completes (i := .punpckldqXmm e d src) rfl rfl
    interleaveDwords_readsLowHalves hlock hen hsrc
  exact ⟨t, hexec, hread ▸ interleaveDwords_interleaves _ _, ht⟩

/-- Settles O16: R130 with the function of R107. -/
theorem punpcklqdqXmmResult : Obligations.PunpcklqdqXmmResult := by
  intro e d src s hlock hen hsrc
  obtain ⟨t, hexec, hread, ht⟩ := exec_sse_completes (i := .punpcklqdqXmm e d src) rfl rfl
    interleaveQwords_readsLowHalves hlock hen hsrc
  exact ⟨t, hexec, hread ▸ interleaveQwords_interleaves _ _, ht⟩

end Sys2Proof.Machine

/-! ## The results of the VEX.128 forms (spec/43_vex128_forms.md R140 to R144)

An enabled VEX.128 form with a readable source leaves `State.vex128Result`, by the argument of the legacy forms: no fault
of R172, no stop of its read, and a function of low halves alone (R46, R115). The first source is its own operand, and the
upper half of the destination is written as zero. -/

namespace Sys2Proof.Machine

theorem earlyFault_of_enabledVex128 {s : State} {i : Instr} {d a : Fin 16} {src : RegMem 16}
    (hi : i.shape = .vex false d a src) (hlock : i.enc.lock = false) (h : s.enabledVex128 = true) :
    s.earlyFault i = none := by
  simp only [State.enabledVex128, Bool.and_eq_true] at h
  obtain ⟨havx, hready⟩ := h
  exact earlyFault_of_vexReady hi hlock hready havx

/-- Every field that R140 writes, in one update. -/
theorem vex128Result_eq (s : State) (e : Enc) (d : Fin 16) (v : BitVec 128) :
    s.vex128Result e d v = { s with
      ymm := s.ymm.set d (0#128 ++ v)
      rip := truncTo s.codeSize (s.rip + BitVec.ofNat 64 e.len) } := rfl

section
variable {i : Instr} {f : BitVec 128 → BitVec 128 → BitVec 128} {d a : Fin 16} {src : RegMem 16} {s : State}

theorem exec_of_enabledVex128 (hi : i.shape = .vex false d a src)
    (hform : exec i s = vex128Form f i.enc d a src s) (hlow : ReadsLowHalves f) (hlock : i.enc.lock = false)
    (hen : s.enabledVex128 = true) (hsrc : s.vecSrcOk .vex i.enc.len 16 src = true) :
    exec i s = .next (s.vex128Result i.enc d (f (s.readXmm a) (s.xmmValue i.enc.len src))) := by
  obtain ⟨v, hread, hv⟩ := xmmSource_ok s .vex i.enc.len src hsrc
  have hstops : ∀ x, ¬ s.sourceStops i x := fun x => by simp [sourceStops_vex128 hi, hread]
  obtain ⟨t, hnext⟩ := exec_of_not_sourceStops (earlyFault_of_enabledVex128 hi hlock hen) hstops
  obtain ⟨v', hread', rfl⟩ := vex128Form_next (hform ▸ hnext)
  cases hread.symm.trans hread'
  rw [hnext, hlow _ _ _ _ rfl hv]

/-- The completion of a VEX.128 form with its whole next state, for any function that interleaves the low halves of the
two sources (R140). -/
theorem exec_vex128_interleaves {w n : Nat} (hi : i.shape = .vex false d a src)
    (hform : exec i s = vex128Form f i.enc d a src s) (hlow : ReadsLowHalves f)
    (hf : ∀ s1 s2, Interleaves w n 0 0 (f s1 s2) s1 s2) (hlock : i.enc.lock = false)
    (hen : s.enabledVex128 = true) (hsrc : s.vecSrcOk .vex i.enc.len 16 src = true) :
    ∃ t, exec i s = .next t ∧
      Interleaves w n 0 0 (t.readXmm d) (s.readXmm a) (s.xmmValue i.enc.len src) ∧
      t = { s with
        ymm := s.ymm.set d (0#128 ++ t.readXmm d)
        rip := truncTo s.codeSize (s.rip + BitVec.ofNat 64 i.enc.len) } := by
  obtain ⟨hxmm, _⟩ := vex128Result_halves s i.enc d (f (s.readXmm a) (s.xmmValue i.enc.len src))
  refine ⟨_, exec_of_enabledVex128 hi hform hlow hlock hen hsrc, ?_, ?_⟩
  · rw [hxmm]
    exact hf _ _
  · rw [hxmm, vex128Result_eq]

end

/-- Settles O17: R140 with the function of R104. -/
theorem vpunpcklbwXmmResult : Obligations.VpunpcklbwXmmResult := fun e d a src _ =>
  exec_vex128_interleaves (i := .vpunpcklbwXmm e d a src) rfl rfl interleaveBytes_readsLowHalves
    interleaveBytes_interleaves

/-- Settles O18: R140 with the function of R105. -/
theorem vpunpcklwdXmmResult : Obligations.VpunpcklwdXmmResult := fun e d a src _ =>
  exec_vex128_interleaves (i := .vpunpcklwdXmm e d a src) rfl rfl interleaveWords_readsLowHalves
    interleaveWords_interleaves

/-- Settles O19: R140 with the function of R106. -/
theorem vpunpckldqXmmResult : Obligations.VpunpckldqXmmResult := fun e d a src _ =>
  exec_vex128_interleaves (i := .vpunpckldqXmm e d a src) rfl rfl interleaveDwords_readsLowHalves
    interleaveDwords_interleaves

/-- Settles O20: R140 with the function of R107. -/
theorem vpunpcklqdqXmmResult : Obligations.VpunpcklqdqXmmResult := fun e d a src _ =>
  exec_vex128_interleaves (i := .vpunpcklqdqXmm e d a src) rfl rfl interleaveQwords_readsLowHalves
    interleaveQwords_interleaves

end Sys2Proof.Machine

/-! ## The results of the VEX.256 forms (spec/44_vex256_forms.md R150 to R154)

An enabled VEX.256 form with a readable source leaves `State.vex256Result`. All 32 bytes of a memory operand are read
whatever `FETCH64` (R46), so the value read is the operand's; the function interleaves within each 128-bit lane (R112). -/

namespace Sys2Proof.Machine

theorem readYmm_vex256Result_same (s : State) (e : Enc) (d : Fin 16) (v : BitVec 256) :
    (s.vex256Result e d v).readYmm d = v := by
  rw [State.vex256Result, readYmm_advance, readYmm_writeYmm_same]

/-- Every field that R150 writes, in one update. -/
theorem vex256Result_eq (s : State) (e : Enc) (d : Fin 16) (v : BitVec 256) :
    s.vex256Result e d v = { s with
      ymm := s.ymm.set d v
      rip := truncTo s.codeSize (s.rip + BitVec.ofNat 64 e.len) } := rfl

section
variable {i : Instr} {f : BitVec 256 → BitVec 256 → BitVec 256} {d a : Fin 16} {src : RegMem 16} {s : State}

theorem exec_of_enabledVex256 (hi : i.shape = .vex true d a src)
    (hform : exec i s = vex256Form f i.enc d a src s) (hlock : i.enc.lock = false)
    (havx2 : s.config.hasAvx2 = true) (hready : s.vexReady = true)
    (hsrc : s.vecSrcOk .vex i.enc.len 32 src = true) :
    exec i s = .next (s.vex256Result i.enc d (f (s.readYmm a) (s.ymmValue i.enc.len src))) := by
  have hread := ymmSource_ok s i.enc.len src hsrc
  have hstops : ∀ x, ¬ s.sourceStops i x := fun x => by simp [sourceStops_vex256 hi, hread]
  obtain ⟨t, hnext⟩ := exec_of_not_sourceStops (earlyFault_of_vexReady hi hlock hready havx2) hstops
  obtain ⟨v, hread', rfl⟩ := vex256Form_next (hform ▸ hnext)
  cases hread.symm.trans hread'
  exact hnext

/-- The completion of a VEX.256 form with its whole next state, for any function that interleaves the low halves of
each lane of the two sources (R150). -/
theorem exec_vex256_interleaves {w n : Nat} (hi : i.shape = .vex true d a src)
    (hform : exec i s = vex256Form f i.enc d a src s)
    (hlow : ∀ s1 s2, Interleaves w n 0 0 (f s1 s2) s1 s2)
    (hhigh : ∀ s1 s2, Interleaves w n 128 128 (f s1 s2) s1 s2) (hlock : i.enc.lock = false)
    (havx2 : s.config.hasAvx2 = true) (hready : s.vexReady = true)
    (hsrc : s.vecSrcOk .vex i.enc.len 32 src = true) :
    ∃ t, exec i s = .next t ∧
      Interleaves w n 0 0 (t.readYmm d) (s.readYmm a) (s.ymmValue i.enc.len src) ∧
      Interleaves w n 128 128 (t.readYmm d) (s.readYmm a) (s.ymmValue i.enc.len src) ∧
      t = { s with
        ymm := s.ymm.set d (t.readYmm d)
        rip := truncTo s.codeSize (s.rip + BitVec.ofNat 64 i.enc.len) } := by
  refine ⟨_, exec_of_enabledVex256 hi hform hlock havx2 hready hsrc, ?_⟩
  rw [readYmm_vex256Result_same]
  exact ⟨hlow _ _, hhigh _ _, vex256Result_eq s i.enc d _⟩

end

/-- Settles O21: R150 with the function of R108. -/
theorem vpunpcklbwYmmResult : Obligations.VpunpcklbwYmmResult := fun e d a src _ =>
  exec_vex256_interleaves (i := .vpunpcklbwYmm e d a src) rfl rfl interleaveBytes256_interleaves_low
    interleaveBytes256_interleaves_high

/-- Settles O22: R150 with the function of R109. -/
theorem vpunpcklwdYmmResult : Obligations.VpunpcklwdYmmResult := fun e d a src _ =>
  exec_vex256_interleaves (i := .vpunpcklwdYmm e d a src) rfl rfl interleaveWords256_interleaves_low
    interleaveWords256_interleaves_high

/-- Settles O23: R150 with the function of R110. -/
theorem vpunpckldqYmmResult : Obligations.VpunpckldqYmmResult := fun e d a src _ =>
  exec_vex256_interleaves (i := .vpunpckldqYmm e d a src) rfl rfl interleaveDwords256_interleaves_low
    interleaveDwords256_interleaves_high

/-- Settles O24: R150 with the function of R111. -/
theorem vpunpcklqdqYmmResult : Obligations.VpunpcklqdqYmmResult := fun e d a src _ =>
  exec_vex256_interleaves (i := .vpunpcklqdqYmm e d a src) rfl rfl interleaveQwords256_interleaves_low
    interleaveQwords256_interleaves_high

end Sys2Proof.Machine

/-! ## Exceptions (spec/60_exceptions.md R160 to R174)

An instruction ends in a fault in two ways only: `State.earlyFault` raises one, or the read of its memory operand stops
with one (`exec_fault_iff`). Which exception it is decides which of the two it was: `#UD`, `#NM` and `#MF` are early,
`#GP`, `#SS`, `#PF` and `#AC` are the operand's. -/

namespace Sys2Proof.Machine

/-! ### Faults and the exceptions they stand for -/

@[simp] theorem toFault_exception (x : Exception) (pc : BitVec 64) : (x.toFault pc).exception = x := by cases x <;> rfl

@[simp] theorem toFault_savedPc (x : Exception) (pc : BitVec 64) : (x.toFault pc).savedPc = pc := by cases x <;> rfl

theorem toFault_eq_iff {x y : Exception} {pc pc' : BitVec 64} : x.toFault pc = y.toFault pc' ↔ x = y ∧ pc = pc' := by
  refine ⟨fun h => ⟨?_, ?_⟩, fun ⟨hx, hpc⟩ => by rw [hx, hpc]⟩
  · simpa using congrArg Fault.exception h
  · simpa using congrArg Fault.savedPc h

theorem takeException_eq_fault_iff {x : Exception} {s : State} {f : Fault} :
    takeException x s = .fault f ↔ f = x.toFault s.rip := by
  simp [takeException, eq_comm]

theorem takeException_ud (s : State) : takeException .ud s = .fault (.invalidOpcode s.rip) := rfl

theorem takeException_gp (s : State) : takeException .gp s = .fault (.generalProtection s.rip) := rfl

/-! ### What the read of an operand can raise (spec/20_memory.md R58) -/

/-- No read raises `#UD`, `#NM` or `#MF`, and `#AC` is raised by step 3 of R58 alone. -/
theorem memRead_raise {s : State} {c : OpClass} {g : Seg} {ea : Word} {n : Nat} {x : Exception}
    (h : s.memRead c g ea n = .error (.raise x)) :
    x = .gp ∨ x = .ss ∨ (∃ code a, x = .pf code a) ∨ (x = .ac ∧ s.alignTrap c g ea = true) := by
  rcases memRead_cases s c g ea n with ⟨_, hok⟩ | ⟨_, he | he | ⟨code, a, he⟩ | ⟨htrap, he⟩ | he⟩
  · cases hok.symm.trans h
  · cases he.symm.trans h
    exact .inl rfl
  · cases he.symm.trans h
    exact .inr (.inl rfl)
  · cases he.symm.trans h
    exact .inr (.inr (.inl ⟨code, a, rfl⟩))
  · cases he.symm.trans h
    exact .inr (.inr (.inr ⟨rfl, htrap⟩))
  · cases he.symm.trans h

theorem sourceStops_raise {s : State} {i : Instr} {x : Exception} (h : s.sourceStops i (.raise x)) :
    x ≠ .ud ∧ x ≠ .nm ∧ x ≠ .mf := by
  obtain ⟨c, m, n, _, hread⟩ := h
  rcases memRead_raise hread with rfl | rfl | ⟨code, a, rfl⟩ | ⟨rfl, _⟩ <;> simp

/-- `ALIGN_CHECK` and a misaligned m32 raise `#AC` once `Translate` has answered (R171). -/
theorem memRead_alignTrap {s : State} {g : Seg} {ea : Word} {n : Nat} {as : List Nat}
    (hcheck : s.alignCheck = true) (hmis : (s.linear g ea).toNat % 4 ≠ 0) (has : s.translate g ea n = .ok as) :
    s.memRead .mmx g ea n = .error (.raise .ac) := by
  have htrap : s.alignTrap .mmx g ea = true := by simp [State.alignTrap, hcheck, hmis]
  simp [State.memRead, State.misaligned, has, htrap]

theorem of_alignTrap {s : State} {c : OpClass} {g : Seg} {ea : Word} (h : s.alignTrap c g ea = true) :
    c = .mmx ∧ s.alignCheck = true ∧ (s.linear g ea).toNat % 4 ≠ 0 := by
  simpa [State.alignTrap, and_assoc] using h

theorem alignCheck_iff {s : State} :
    s.alignCheck = true ↔ s.cr0.getLsbD 18 = true ∧ s.eflags.getLsbD 18 = true ∧ s.cpl = 3 := by
  simp [State.alignCheck, State.am, State.acFlag, State.user, and_assoc]

theorem shape_of_memOperandOf_mmx {i : Instr} {m : MemOp} {n : Nat} (h : memOperandOf i = some (.mmx, m, n)) :
    ∃ d, i.shape = .mmx d (.mem m) := by
  unfold memOperandOf at h
  split at h
  · next d m' hi => cases h; exact ⟨d, hi⟩
  all_goals cases h

/-! ### The faults that come first (R162 to R168, R172) -/

theorem earlyFault_eq_ud_iff {s : State} {i : Instr} : s.earlyFault i = some .ud ↔ s.udFor i = true := by
  unfold State.earlyFault
  cases s.udFor i <;> cases s.ts <;> simp

theorem earlyFault_eq_nm_iff {s : State} {i : Instr} :
    s.earlyFault i = some .nm ↔ s.udFor i = false ∧ s.ts = true := by
  unfold State.earlyFault
  cases s.udFor i <;> cases s.ts <;> simp

theorem earlyFault_eq_mf_iff {s : State} {i : Instr} :
    s.earlyFault i = some .mf ↔ s.udFor i = false ∧ s.ts = false ∧ isMmxForm i = true ∧ s.x87Pending = true := by
  unfold State.earlyFault
  cases s.udFor i <;> cases s.ts <;> simp

theorem earlyFault_ne_ac (s : State) (i : Instr) : s.earlyFault i ≠ some .ac := by
  unfold State.earlyFault
  cases s.udFor i <;> cases s.ts <;> simp

theorem earlyFault_of_enabledMmx {s : State} {i : Instr} {d : Fin 8} {src : RegMem 8} (hi : i.shape = .mmx d src)
    (hlock : i.enc.lock = false) (h : s.enabledMmx = true) : s.earlyFault i = none := by
  obtain ⟨hud, hts, hpending⟩ := mmx_checks_of_enabledMmx hlock h
  simp [earlyFault_mmx hi, hud, hts, hpending]

/-! ### What an instruction that faults has raised -/

/-- The two ways an instruction ends in a fault, and the instruction pointer it saves (R160, R173). -/
theorem exec_fault_iff {i : Instr} {s : State} {f : Fault} :
    exec i s = .fault f ↔ ∃ x, f = x.toFault s.rip ∧
      (s.earlyFault i = some x ∨ (s.earlyFault i = none ∧ s.sourceStops i (.raise x))) := by
  constructor
  · intro h
    cases exec_cases i s with
    | raised x hearly he => exact ⟨x, takeException_eq_fault_iff.1 (he.symm.trans h), .inl hearly⟩
    | stopped x hearly hstop he =>
      cases x with
      | raise x => exact ⟨x, takeException_eq_fault_iff.1 (he.symm.trans h), .inr ⟨hearly, hstop⟩⟩
      | refuse r => cases he.symm.trans h
    | completed t _ _ he => cases he.symm.trans h
  · rintro ⟨x, rfl, hearly | ⟨hearly, hstop⟩⟩
    · exact exec_of_earlyFault hearly
    · exact exec_of_sourceStops hearly hstop

theorem exec_toFault {i : Instr} {s : State} {x : Exception} {pc : BitVec 64} (h : exec i s = .fault (x.toFault pc)) :
    s.earlyFault i = some x ∨ (s.earlyFault i = none ∧ s.sourceStops i (.raise x)) := by
  obtain ⟨y, hy, hcases⟩ := exec_fault_iff.1 h
  obtain ⟨rfl, _⟩ := toFault_eq_iff.1 hy
  exact hcases

/-- An instruction ends in `#UD` exactly when one of the conditions of R162 to R166 holds. -/
theorem exec_ud_iff {i : Instr} {s : State} : exec i s = .fault (.invalidOpcode s.rip) ↔ s.udFor i = true := by
  refine ⟨fun h => ?_, fun h => exec_of_earlyFault (earlyFault_eq_ud_iff.2 h)⟩
  rcases exec_toFault (x := .ud) h with hearly | ⟨_, hstop⟩
  · exact earlyFault_eq_ud_iff.1 hearly
  · exact absurd rfl (sourceStops_raise hstop).1

theorem exec_fault_savedPc {i : Instr} {s : State} {f : Fault} (h : exec i s = .fault f) : f.savedPc = s.rip := by
  obtain ⟨x, rfl, _⟩ := exec_fault_iff.1 h
  exact toFault_savedPc x s.rip

theorem takeException_savedPc {x : Exception} {s : State} {f : Fault} (h : takeException x s = .fault f) :
    f.savedPc = s.rip := by
  rw [takeException_eq_fault_iff.1 h, toFault_savedPc]

theorem step_fault_savedPc {s : State} {f : Fault} (h : step s = .fault f) : f.savedPc = s.rip := by
  rcases step_cases s with ⟨_, he⟩ | ⟨_, ⟨i, _, he⟩ | ⟨_, he⟩ | ⟨_, he⟩ | ⟨_, he⟩ | ⟨_, he⟩⟩
  · exact takeException_savedPc (he.symm.trans h)
  · exact exec_fault_savedPc (he.symm.trans h)
  · exact takeException_savedPc (he.symm.trans h)
  · exact takeException_savedPc (he.symm.trans h)
  · cases he.symm.trans h
  · cases he.symm.trans h

/-! ### The `#UD` conditions of each class (R162 to R166) -/

theorem udFor_mmx {i : Instr} {d : Fin 8} {src : RegMem 8} {s : State} (hi : i.shape = .mmx d src) :
    s.udFor i = true ↔ i.enc.lock = true ∨ s.config.hasMmx = false ∨ s.cr0.getLsbD 2 = true := by
  simp [State.udFor, hi, shapeFeatured, shapeControlled, State.em, or_assoc]

theorem udFor_sse {i : Instr} {d : Fin 16} {src : RegMem 16} {s : State} (hi : i.shape = .sse d src) :
    s.udFor i = true ↔ i.enc.lock = true ∨ s.config.hasSse2 = false ∨ s.cr0.getLsbD 2 = true ∨
      s.cr4.getLsbD 9 = false := by
  simp [State.udFor, hi, shapeFeatured, shapeControlled, State.em, State.osfxsr, or_assoc]

/-- `XCR0[2:1]` is not `11b` exactly when one of its two bits is 0. -/
theorem avxState_eq_false_iff {s : State} :
    s.avxState = false ↔ s.xcr0.getLsbD 1 = false ∨ s.xcr0.getLsbD 2 = false := by
  have hpair : ∀ v : BitVec 2, ¬ v = 3#2 ↔ v.getLsbD 0 = false ∨ v.getLsbD 1 = false := by decide
  rw [State.avxState, decide_eq_false_iff_not, hpair, BitVec.getLsbD_extractLsb, BitVec.getLsbD_extractLsb]
  simp

theorem udFor_vex {i : Instr} {l : Bool} {d a : Fin 16} {src : RegMem 16} {s : State}
    (hi : i.shape = .vex l d a src) :
    s.udFor i = true ↔ i.enc.lock = true ∨ (if l then s.config.hasAvx2 else s.config.hasAvx) = false ∨
      s.mode = .real ∨ s.mode = .v8086 ∨ s.cr4.getLsbD 18 = false ∨
      s.xcr0.getLsbD 1 = false ∨ s.xcr0.getLsbD 2 = false := by
  rw [← avxState_eq_false_iff]
  simp only [State.udFor, hi, shapeFeatured, shapeControlled, State.osxsave, Bool.or_eq_true, Bool.not_eq_true',
    Bool.and_eq_false_iff, decide_eq_false_iff_not, ne_eq, not_not, or_assoc]

theorem udFor_of_unfeatured {i : Instr} {s : State} (h : shapeFeatured s i.shape = false) : s.udFor i = true := by
  simp [State.udFor, h]

/-! ### The statements about `#UD`, `#NM`, `#MF` and `#AC` -/

/-- Settles O31. -/
theorem faultsSaveTheInstructionAddress : Obligations.FaultsSaveTheInstructionAddress :=
  ⟨fun _ _ h => step_fault_savedPc h, fun _ _ _ h => exec_fault_savedPc h⟩

/-- Settles O34: `LOCK` and the feature flag of the form's class are `#UD` conditions. -/
theorem lockOrMissingFeatureIsUd : Obligations.LockOrMissingFeatureIsUd := by
  intro i s h
  refine exec_ud_iff.2 ?_
  rcases h with hlock | hfeature
  · simp [State.udFor, hlock]
  · refine udFor_of_unfeatured ?_
    cases hi : i.shape with
    | mmx d src => simpa [hi, shapeFeatured] using hfeature
    | sse d src => simpa [hi, shapeFeatured] using hfeature
    | vex l d a src => cases l <;> simpa [hi, shapeFeatured] using hfeature

/-- Settles O35. -/
theorem mmxUdExactlyOnEmulation : Obligations.MmxUdExactlyOnEmulation :=
  fun _ _ _ _ hi => exec_ud_iff.trans (udFor_mmx hi)

/-- Settles O36. -/
theorem sseUdExactlyOnControlBits : Obligations.SseUdExactlyOnControlBits :=
  fun _ _ _ _ hi => exec_ud_iff.trans (udFor_sse hi)

/-- Settles O37. -/
theorem vexUdExactlyOnModeAndState : Obligations.VexUdExactlyOnModeAndState :=
  fun _ _ _ _ _ _ hi => exec_ud_iff.trans (udFor_vex hi)

/-- Settles O38: among the early faults `#NM` is second. -/
theorem nmAfterEveryUdCondition : Obligations.NmAfterEveryUdCondition :=
  fun _ _ hts => ⟨exec_ud_iff.2, fun hud => exec_of_earlyFault (earlyFault_eq_nm_iff.2 ⟨hud, hts⟩)⟩

/-- Settles O39: `#MF` is the third early fault, of the MMX forms alone, and no read of an operand raises it. -/
theorem mfForMmxFormsOnly : Obligations.MfForMmxFormsOnly := by
  refine ⟨fun i s hmmx hud hts hpending => ?_, fun i s pc hmmx h => ?_⟩
  · exact exec_of_earlyFault (earlyFault_eq_mf_iff.2 ⟨hud, hts, hmmx, hpending⟩)
  · rcases exec_toFault (x := .mf) h with hearly | ⟨_, hstop⟩
    · obtain ⟨_, _, hmmx', _⟩ := earlyFault_eq_mf_iff.1 hearly
      simp [hmmx] at hmmx'
    · obtain ⟨_, _, hmf⟩ := sourceStops_raise hstop
      exact hmf rfl

/-- Settles O40: `#AC` is raised by step 3 of the read alone, which asks for an MMX form. -/
theorem alignmentCheckForMmxFormsOnly : Obligations.AlignmentCheckForMmxFormsOnly := by
  refine ⟨fun i s pc h => ?_, fun i d m s hi hlock hen hcheck hmis htranslate => ?_⟩
  · rcases exec_toFault (x := .ac) h with hearly | ⟨_, c, m, n, hm, hread⟩
    · exact absurd hearly (earlyFault_ne_ac s i)
    · have htrap : s.alignTrap c m.seg (s.effAddr i.enc.len m) = true := by simpa using memRead_raise hread
      obtain ⟨rfl, hcheck, hmis⟩ := of_alignTrap htrap
      obtain ⟨d, hi⟩ := shape_of_memOperandOf_mmx hm
      obtain ⟨ham, hac, hcpl⟩ := alignCheck_iff.1 hcheck
      exact ⟨ham, hac, hcpl, d, m, hi, hmis⟩
  · obtain ⟨as, has⟩ := htranslate
    have hm : memOperandOf i = some (.mmx, m, 4) := by simp [memOperandOf, hi]
    exact exec_of_sourceStops (earlyFault_of_enabledMmx hi hlock hen)
      ⟨.mmx, m, 4, hm, memRead_alignTrap hcheck hmis has⟩

/-! ### The step -/

/-- Settles O52, from the cases of a step. -/
theorem stepRunsTheDecodedInstruction : Obligations.StepRunsTheDecodedInstruction := by
  intro s
  have hcases := step_cases s
  refine ⟨fun hf => ⟨fun i hd => ?_, fun hd => ?_, fun hd => ?_, fun hd => ?_, fun hd => ?_⟩, fun hf => ?_⟩
  · simpa [hf, hd] using hcases
  · simpa [hf, hd, takeException_ud] using hcases
  · simpa [hf, hd, takeException_gp] using hcases
  · simpa [hf, hd] using hcases
  · simpa [hf, hd] using hcases
  · simpa [hf, takeException_gp] using hcases

end Sys2Proof.Machine

/-! ## Segment checks and page faults (spec/20_memory.md R50, spec/60_exceptions.md R161, R169, R170, R174) -/

namespace Sys2Proof.Machine

/-! ### The segment check -/

theorem translate_of_segOk_false {s : State} {g : Seg} {ea : Word} {n : Nat} (ho : s.oracle g ea n = none)
    (h : s.segOk g ea n = false) : s.translate g ea n = .error (s.segFault g) := by
  rw [translate_walk s g ea n ho]
  simp [State.walk, h]

theorem translate_of_segOk {s : State} {g : Seg} {ea : Word} {n : Nat} (ho : s.oracle g ea n = none)
    (h : s.segOk g ea n = true) : s.translate g ea n = s.pageWalks (s.linearBytes g ea n) := by
  rw [translate_walk s g ea n ho]
  simp [State.walk, h]

theorem within_eq_false_iff {r : SegReg} {ea : Word} {n : Nat} :
    r.within ea n = false ↔ ea.toNat + n > r.limit.toNat + 1 := by
  simp [SegReg.within]

/-- A null selector is one of the values 0 to 3 (log 16). -/
theorem null_iff {r : SegReg} : r.null = true ↔ r.selector.toNat < 4 := by
  have hlt : r.selector.toNat < 65536 := r.selector.isLt
  rw [SegReg.null, decide_eq_true_iff, ← BitVec.toNat_inj]
  simp only [BitVec.extractLsb_toNat, BitVec.toNat_ofNat, Nat.shiftRight_eq_div_pow]
  omega

theorem allows_eq_false_iff {r : SegReg} {ea : Word} {n : Nat} :
    r.allows ea n = false ↔ r.readable = false ∨ r.selector.toNat < 4 ∨ ea.toNat + n > r.limit.toNat + 1 := by
  rw [← null_iff, ← within_eq_false_iff, SegReg.allows, Bool.and_eq_false_iff, Bool.and_eq_false_iff,
    Bool.not_eq_false', or_assoc]

theorem segOk_real {s : State} {g : Seg} {ea : Word} {n : Nat} (hm : s.mode = .real ∨ s.mode = .v8086) :
    s.segOk g ea n = (decide (ea.toNat + n ≤ 0x10000) && (s.segReg g).within ea n) := by
  rcases hm with hm | hm <;> simp [State.segOk, hm]

theorem segOk_protected {s : State} {g : Seg} {ea : Word} {n : Nat}
    (hm : s.mode = .prot16 ∨ s.mode = .prot32 ∨ s.mode = .compat) :
    s.segOk g ea n = (s.segReg g).allows ea n := by
  rcases hm with hm | hm | hm <;> simp [State.segOk, hm]

theorem segOk_long64 {s : State} {g : Seg} {ea : Word} {n : Nat} (hm : s.mode = .long64) :
    s.segOk g ea n = (s.linearBytes g ea n).all canonical := by
  simp [State.segOk, hm]

theorem segFault_real {s : State} {g : Seg} (hm : s.mode = .real ∨ s.mode = .v8086) : s.segFault g = .gp := by
  rcases hm with hm | hm <;> simp [State.segFault, hm]

theorem segFault_not_real {s : State} {g : Seg} (hreal : s.mode ≠ .real) (hv8086 : s.mode ≠ .v8086) :
    s.segFault g = if g = .ss then .ss else .gp := by
  simp [State.segFault, hreal, hv8086]

/-- All of bits 63:47 of a canonical address equal bit 63 (R50). -/
theorem getLsbD_of_canonical {a : Word} (h : canonical a = true) {j : Nat} (hlo : 47 ≤ j) (hhi : j < 64) :
    a.getLsbD j = a.getLsbD 63 := by
  have hbit : ∀ k, 47 ≤ k → k < 64 → a.getLsbD k = (a.extractLsb 63 47).getLsbD (k - 47) := by
    intro k hk hk'
    have hlt : k - 47 < 17 := by omega
    rw [BitVec.getLsbD_extractLsb, Nat.add_sub_cancel' hk]
    simp [hlt]
  rw [hbit j hlo hhi, hbit 63 (by omega) (by omega)]
  simp only [canonical, Bool.or_eq_true, decide_eq_true_eq] at h
  rcases h with h | h <;> rw [h]
  · simp
  · have hj : j - 47 < 17 := by omega
    simp only [BitVec.getLsbD_allOnes]
    simp [hj]

/-- Settles O43: each mode's check fails, and the mode and the segment name the exception. -/
theorem segmentChecksFault : Obligations.SegmentChecksFault := by
  refine fun s g ea n ho => ⟨fun hm h => ?_, fun hm h => ?_, fun hm h => ?_⟩
  · have hseg : s.segOk g ea n = false := by
      rw [segOk_real hm, Bool.and_eq_false_iff, within_eq_false_iff]
      simpa using h
    rw [translate_of_segOk_false ho hseg, segFault_real hm]
  · have hseg : s.segOk g ea n = false := by rw [segOk_protected hm, allows_eq_false_iff]; exact h
    rw [translate_of_segOk_false ho hseg, segFault_not_real] <;> rcases hm with hm | hm | hm <;> simp [hm]
  · obtain ⟨k, hk, j, hlo, hhi, hne⟩ := h
    have hmem : s.linear g (ea + BitVec.ofNat 64 k) ∈ s.linearBytes g ea n :=
      List.mem_map.2 ⟨k, List.mem_range.2 hk, rfl⟩
    have hseg : s.segOk g ea n = false := by
      rw [segOk_long64 hm, List.all_eq_false]
      exact ⟨_, hmem, fun hcanon => hne (getLsbD_of_canonical hcanon hlo hhi)⟩
    rw [translate_of_segOk_false ho hseg, segFault_not_real] <;> simp [hm]

/-! ### Page faults -/

/-- The error code of a data read, bit by bit (R161). -/
theorem pfCode_bits (s : State) (present reserved : Bool) :
    (s.pfCode present reserved).getLsbD 0 = present ∧ (s.pfCode present reserved).getLsbD 1 = false ∧
      (s.pfCode present reserved).getLsbD 2 = s.user ∧ (s.pfCode present reserved).getLsbD 3 = reserved ∧
      (s.pfCode present reserved).getLsbD 4 = false := by
  unfold State.pfCode
  cases s.user <;> cases present <;> cases reserved <;> decide

theorem user_iff {s : State} : s.user = true ↔ s.cpl = 3 := by simp [State.user]

/-- A page that may not be read is absent, or its entry is reserved or not for user code (R174). -/
theorem pageOk_eq_false_iff {s : State} {a : Word} :
    s.pageOk a = false ↔ ∃ pages, s.pageMap = some pages ∧ ∀ e, findPage pages (a.toNat / 4096) = some e →
      e.reserved = true ∨ (s.user && !e.user) = true := by
  unfold State.pageOk
  cases hp : s.pageMap with
  | none => simp
  | some pages =>
    cases he : findPage pages (a.toNat / 4096) with
    | none => simp [he]
    | some e => cases hr : e.reserved <;> simp [he, hr]

theorem pageWalk_absent {s : State} {a : Word} {pages : List PageEntry} (hp : s.pageMap = some pages)
    (he : findPage pages (a.toNat / 4096) = none) : s.pageWalk a = .error (.pf (s.pfCode false false) a) := by
  simp [State.pageWalk, hp, he]

theorem pageWalk_present {s : State} {a : Word} {pages : List PageEntry} {e : PageEntry}
    (hp : s.pageMap = some pages) (he : findPage pages (a.toNat / 4096) = some e)
    (hbad : e.reserved = true ∨ (s.user && !e.user) = true) :
    s.pageWalk a = .error (.pf (s.pfCode true e.reserved) a) := by
  cases hr : e.reserved with
  | true => simp [State.pageWalk, hp, he, hr]
  | false =>
    have hu : (s.user && !e.user) = true := by simpa [hr] using hbad
    simp [State.pageWalk, hp, he, hr, hu]

/-- The error code of a page that may not be read: the entry of the page, or its absence, decides `P` and `RSVD`
(R161). -/
theorem pageWalk_pfCode {s : State} {b : Word} (h : s.pageOk b = false) :
    ∃ present reserved, s.pageWalk b = .error (.pf (s.pfCode present reserved) b) ∧
      (∀ pages, s.pageMap = some pages → findPage pages (b.toNat / 4096) = none →
        present = false ∧ reserved = false) ∧
      (∀ pages e, s.pageMap = some pages → findPage pages (b.toNat / 4096) = some e →
        present = true ∧ reserved = e.reserved) := by
  obtain ⟨pages, hp, hbad⟩ := pageOk_eq_false_iff.1 h
  cases he : findPage pages (b.toNat / 4096) with
  | none =>
    refine ⟨false, false, pageWalk_absent hp he, fun _ _ _ => ⟨rfl, rfl⟩, fun pages' e hp' he' => ?_⟩
    cases hp.symm.trans hp'
    cases he.symm.trans he'
  | some e =>
    refine ⟨true, e.reserved, pageWalk_present hp he (hbad e he), fun pages' hp' he' => ?_,
      fun pages' e' hp' he' => ?_⟩
    · cases hp.symm.trans hp'
      cases he.symm.trans he'
    · cases hp.symm.trans hp'
      cases he.symm.trans he'
      exact ⟨rfl, rfl⟩

/-- The bytes whose pages may be read do not hide the first that may not. -/
theorem pageWalks_first_error {s : State} {pre post : List Word} {b : Word} {x : Exception}
    (hpre : pre.all s.pageOk = true) (hb : s.pageWalk b = .error x) : s.pageWalks (pre ++ b :: post) = .error x := by
  induction pre with
  | nil => simp [State.pageWalks, hb]
  | cons a r ih =>
    simp only [List.all_cons, Bool.and_eq_true] at hpre
    obtain ⟨ha, hr⟩ := hpre
    simp [State.pageWalks, pageWalk_ok s a ha, ih hr]

/-- Settles O44: the walk of the first bad byte decides, and the entry of its page gives the error code. -/
theorem pageFaultNamesTheFirstBadByte : Obligations.PageFaultNamesTheFirstBadByte := by
  refine fun s g ea n ho hseg => ⟨fun hall => ?_, fun pre post b hsplit hpre hb => ?_⟩
  · rw [translate_of_segOk ho hseg, pageWalks_ok s _ hall]
  · obtain ⟨present, reserved, hwalk, habsent, hpresent⟩ := pageWalk_pfCode hb
    obtain ⟨hP, hWR, hUS, hRSVD, hID⟩ := pfCode_bits s present reserved
    refine ⟨s.pfCode present reserved, ?_, hWR, hID, by rw [hUS, user_iff], ?_, ?_⟩
    · rw [translate_of_segOk ho hseg, hsplit, pageWalks_first_error hpre hwalk]
    · rw [hP, hRSVD]
      exact habsent
    · rw [hP, hRSVD]
      exact hpresent

end Sys2Proof.Machine

/-! ## Reset and INIT# (spec/70_reset_and_hazards.md R190, R191)

The implementation parameters choose none of the control bits of the reset state, so the bits of `State.reset` itself
decide R191 for every value of them: `CR0.EM`, `CR0.TS` and `CR4.OSFXSR` are 0, no x87 exception is pending, the mode is real.
`INIT#` takes two bits of `CR0` from the state before it and everything else of that register from reset. -/

namespace Sys2Proof.Machine

/-! ### The reset state -/

/-- `CR0.PE` = 0 is real-address mode, whatever the other bits are (log 4). -/
theorem mode_of_not_pe {s : State} (h : s.pe = false) : s.mode = .real := by
  simp [State.mode, h]

/-- The named bits that decide R191, and `CR0.PE`. -/
theorem reset_control_bits : State.reset.pe = false ∧ State.reset.em = false ∧ State.reset.ts = false ∧
    State.reset.x87Pending = false ∧ State.reset.osfxsr = false := by decide

/-- The reset state is in real-address mode with any implementation parameters. -/
theorem mode_reset (p : Config) : ({ State.reset with config := p } : State).mode = .real := by
  obtain ⟨hpe, -⟩ := reset_control_bits
  exact mode_of_not_pe hpe

theorem reset_pcFits : State.reset.pcFits := by
  have hcode : State.reset.codeSize = .a16 := rfl
  rw [State.pcFits, hcode]
  decide

@[simp] theorem readMm_reset (i : Fin 8) : State.reset.readMm i = 0 := Vector.getElem_replicate _

@[simp] theorem readYmm_reset (i : Fin 16) : State.reset.readYmm i = 0 := Vector.getElem_replicate _

theorem segReg_reset_of_ne_cs {g : Seg} (h : g ≠ .cs) : State.reset.segReg g = SegReg.afterReset := by
  cases g with
  | cs => exact absurd rfl h
  | es | ss | ds | fs | gs => rfl

/-- The row of R192 for the MMX forms asks nothing of the reset state but their feature flag. -/
theorem enabledMmx_reset (p : Config) : ({ State.reset with config := p } : State).enabledMmx = p.hasMmx := by
  obtain ⟨-, hem, hts, hpending, -⟩ := reset_control_bits
  calc ({ State.reset with config := p } : State).enabledMmx
      = (p.hasMmx && !State.reset.em && !State.reset.ts && !State.reset.x87Pending) := rfl
    _ = p.hasMmx := by simp [hem, hts, hpending]

/-! ### `INIT#` -/

theorem segReg_afterInit (s : State) (g : Seg) : s.afterInit.segReg g = State.reset.segReg g := by
  cases g <;> rfl

/-- `INIT#` keeps bits 30 and 29 of `CR0`, `CD` and `NW`, and sets the others as reset does (R190, log 33). -/
theorem cr0_afterInit_bit (s : State) {k : Nat} (hk : k < 32) :
    s.afterInit.cr0.getLsbD k = if k = 29 ∨ k = 30 then s.cr0.getLsbD k else State.reset.cr0.getLsbD k := by
  have hkept : ∀ k < 32, (0x60000000#32).getLsbD k = decide (k = 29 ∨ k = 30) := by decide
  have hset : ∀ k < 32, (0x9FFFFFFF#32).getLsbD k = !decide (k = 29 ∨ k = 30) := by decide
  have hcr0 : s.afterInit.cr0 = (s.cr0 &&& 0x60000000#32) ||| (State.reset.cr0 &&& 0x9FFFFFFF#32) := rfl
  rw [hcr0, BitVec.getLsbD_or, BitVec.getLsbD_and, BitVec.getLsbD_and, hkept k hk, hset k hk]
  split <;> simp [*]

/-- `CR0.PE` is not one of the bits that `INIT#` keeps. -/
theorem mode_afterInit (s : State) : s.afterInit.mode = .real := by
  obtain ⟨hpe, -⟩ := reset_control_bits
  exact mode_of_not_pe ((cr0_afterInit_bit s (k := 0) (by decide)).trans hpe)

/-! ### The statements -/

/-- Settles O60: at reset an MMX form is enabled exactly when its feature is there; `CR4.OSFXSR` is 0 and the mode
is real, each a `#UD` condition of its class (R163, R164). -/
theorem straightOutOfReset : Obligations.StraightOutOfReset := by
  intro i p
  obtain ⟨-, -, -, -, hosfxsr⟩ := reset_control_bits
  refine ⟨fun d src hi hlock hmmx hsrc => ?_, fun d src hi => ?_, fun l d a src hi => ?_⟩
  · obtain ⟨f, hexec⟩ := exec_of_shape_mmx hi
    exact ⟨_, (hexec _).trans (mmxForm_of_enabledMmx f hlock ((enabledMmx_reset p).trans hmmx) hsrc)⟩
  · exact exec_ud_iff.2 ((udFor_sse hi).2 (.inr (.inr (.inr hosfxsr))))
  · exact exec_ud_iff.2 ((udFor_vex hi).2 (.inr (.inr (.inl (mode_reset p)))))

/-- Settles O33: no MMX form has run at reset, so the x87 clause asks nothing. -/
theorem resetHasInvariant : Obligations.ResetHasInvariant := by
  obtain ⟨hmem, htext⟩ := reset_wf
  have hdirty : State.reset.x87Dirty = false := rfl
  exact ⟨hmem, htext, reset_pcFits, fun h => absurd (hdirty.symm.trans h) Bool.false_ne_true⟩

/-- Settles O59: the register files and segments by the lemmas above, every other field of the table by its value in
`State.reset`, and after `INIT#` the mode and `CR0` from the bits it keeps. -/
theorem resetAndInitLeaveTheTableValues : Obligations.ResetAndInitLeaveTheTableValues := by
  have hgpr (r : Fin 16) : State.reset.gpr[r] = 0 := Vector.getElem_replicate _
  constructor
  · refine ⟨readMm_reset, readYmm_reset, fun _ => Vector.getElem_replicate _, rfl, rfl, rfl, rfl, rfl, rfl, rfl,
      fun g hg => ?_, hgpr, rfl, rfl, rfl, rfl, mode_reset resetConfig, rfl⟩
    rw [segReg_reset_of_ne_cs hg]
    exact ⟨rfl, rfl, rfl, rfl, rfl⟩
  · exact fun s => ⟨rfl, rfl, rfl, ⟨rfl, rfl, rfl, rfl⟩, rfl, rfl, rfl, rfl, hgpr, segReg_afterInit s, rfl, rfl,
      mode_afterInit s, rfl, fun _ hk => cr0_afterInit_bit s hk⟩

end Sys2Proof.Machine
